-- ==== Sys2Proof/Word.lean ====
section
/-! DEFINITION. The bit-vector types of the framer: output bytes, command words and text code points
(00_scope.md R8, R9). -/

namespace Sys2Proof

/-- A byte on the wire, 0..255 (R9). -/
abbrev Byte := BitVec 8

/-- A command word on `cmd_data[31:0]`, CMD_W = 32 bits (R8, R43). -/
abbrev Word := BitVec 32

/-- A text code point, CP_W = 21 bits (R8, R46). -/
abbrev CodePoint := BitVec 21

/-- A value of the checksum accumulator, ACC_W = 16 bits (R8, R18). -/
abbrev Sum16 := BitVec 16

end Sys2Proof
end

