-- ==== Sys2Proof/Config.lean ====
section
/-! DEFINITION. What is fixed for a run: the framer's settled parameters (00_scope.md R8) and the OPEN parameters,
which are opaque constants with no body, so that a theorem holds for every value of them (10_state.md R29;
92_eei_decisions.md D10, D21; log 6, 18 to 24). -/

namespace Sys2Proof

/-! ### Settled parameters (R8) -/

/-- CK_MOD, the checksum modulus: 65535, not 65536 (R8, R73). -/
abbrev Config.ckMod : Nat := 65535

/-- HDR_LEN, the header's length in bytes (R8). -/
abbrev Config.hdrLen : Nat := 10

/-- PEND_MAX, the most bytes one command queues for output (R8). -/
abbrev Config.pendMax : Nat := 11

/-- PLACEHOLDER, the byte `_` that stands for a code point above 127 that is no key (R8, R11). -/
abbrev Config.placeholder : Byte := 0x5F#8

/-! ### OPEN: the escape LUT (42_escape.md R79) -/

/-- The part of EXT_MAP the spec leaves open: for an accented Latin letter, its 2-byte entry or none.
`Machine.lutLookup` asks it only where R79's constraints leave the answer open. -/
opaque Config.extOther : CodePoint → Option (Byte × Byte)

/-! ### OPEN: the host's tables (43_command_builder.md; 92_eei_decisions.md D21) -/

/-- The sub-command bytes the host's operations send after the selector (R91, R98, R99). -/
inductive SubCmd where
  | time | weekday | date | timeFmt | sound | reset   -- write_special (R91)
  | memMap                                            -- set_memory_map (R98)
  | readErr | memSize                                 -- read_special (R99)
  deriving DecidableEq, Repr

/-- A day of the week, by name; which number the protocol gives it is open (R93). -/
inductive Weekday where
  | monday | tuesday | wednesday | thursday | friday | saturday | sunday
  deriving DecidableEq, Repr

/-- The two kinds of memory slot set_memory_map defines (R98). -/
inductive SlotKind where
  | text | string
  deriving DecidableEq, Repr

/-- One slot of the sign's memory map: its label's characters, its kind, its capacity in bytes and, for a text
file, the run-time flag "always" (R98). -/
structure Slot where
  label     : List Byte
  kind      : SlotKind
  capacity  : Nat
  runAlways : Bool
  deriving DecidableEq, Repr

/-- A display-mode code: one byte, or two (R89). -/
inductive ModeCode where
  | one (b : Byte)
  | two (b c : Byte)
  deriving DecidableEq, Repr, Inhabited

/-- MODE_CODE of the default mode 'rotate' (R89). -/
opaque Config.rotateCode : ModeCode

/-- MODE_CODE of a mode the source names beside 'rotate' (R89). -/
opaque Config.namedModeCode : String → ModeCode

/-- The rest of the display-mode table: a mode name's code, or none for a name outside the table (R89). -/
opaque Config.modeTable : String → Option ModeCode

/-- SUBCMD_*: the fixed sub-command byte of each operation (R91, R98, R99). -/
opaque Config.subcmd : SubCmd → Byte

/-- The number the two hour digits of ARG_TIME show for an hour of the day: 0..23 or 1..12 is open (R92). -/
opaque Config.shownHour : Fin 24 → Fin 24

/-- The number 0..6 that ARG_WEEKDAY shows for a day (R93). -/
opaque Config.weekdayNumber : Weekday → Fin 7

/-- ARG_RESET, the argument of soft_reset; it need not be empty (R97). -/
opaque Config.argReset : List Byte

/-- The order of the memory map's descriptors: which slot of the default order, counted from 0, is sent at each place
(R98). -/
opaque Config.slotOrder : Equiv.Perm (Fin 15)

/-- MEMMAP_DESCRIPTOR without its suffix: a slot's layout string (R98). -/
opaque Config.memmapLayout : Slot → List Byte

/-- The fixed descriptor suffix of each kind of slot (R98). -/
opaque Config.memmapSuffix : SlotKind → List Byte

end Sys2Proof
end

