-- ==== Sys2Proof/Syntax.lean ====
section
/-! DEFINITION. The framer's commands: one constructor per row of spec/opcode_table.json (30_encoding.md R44). -/

namespace Sys2Proof

/-- A command. Every value of every operand is legal (R48), so the operands' types are their fields' widths. -/
inductive Instr where
  /-- OPEN sel: start a packet with command selector `sel` (40_framing.md R60). -/
  | openPacket (sel : Byte)
  /-- BYTE b: one raw payload byte (R61). -/
  | byte (b : Byte)
  /-- CHAR cp: one text code point, through the escape unit (42_escape.md R78). -/
  | char (cp : CodePoint)
  /-- CLOSE: end the packet (R62). -/
  | close
  /-- CLRERR: clear the error state and abandon any open packet (R63). -/
  | clrErr
  deriving DecidableEq, Repr

end Sys2Proof
end

