-- ==== Sys2Proof/WellFormed.lean ====
section
/-! DEFINITION. Which command words are well formed (30_encoding.md R45 to R50): a defined opcode with every
reserved bit of its format 0. Every `Instr` stands for a well-formed word: its operands have exactly their fields'
widths and every value of a field is legal (R48). -/

namespace Sys2Proof

/-- The opcode field OP = w[31:28] (R43). -/
def opField (w : Word) : BitVec 4 := w.extractLsb' 28 4

/-- OP is one of 0x1..0x5; 0x0 and 0x6..0xF are reserved (R44, R50). -/
def opDefined (w : Word) : Bool :=
  decide (1 ≤ (opField w).toNat ∧ (opField w).toNat ≤ 5)

/-- Every reserved bit of the format that OP selects is 0: S8 [27:8] (R45), CP [27:21] (R46), N [27:0] (R47). -/
def reservedClear (w : Word) : Bool :=
  match (opField w).toNat with
  | 1 => w.extractLsb' 8 20 == 0#20
  | 2 => w.extractLsb' 8 20 == 0#20
  | 3 => w.extractLsb' 21 7 == 0#7
  | 4 => w.extractLsb' 0 28 == 0#28
  | 5 => w.extractLsb' 0 28 == 0#28
  | _ => true

/-- A well-formed command word (R49, R50). -/
def wellFormedWord (w : Word) : Bool := opDefined w && reservedClear w

end Sys2Proof
end

