-- ==== Sys2Proof/Decode.lean ====
section
/-! DEFINITION. The decoder, total on 32-bit words (30_encoding.md R49), the encoder written from the same formats
(R45 to R47), and the decoder on a word numbered as spec/opcode_table.json numbers it. -/

namespace Sys2Proof

/-- What the decoder says of a word: a command, or one of its two verdicts by name (R49). -/
inductive Decoded where
  | instr (i : Instr)
  /-- OP is 0x0 or 0x6..0xF. -/
  | illegalOp
  /-- OP is defined, but a reserved bit of its format is 1. -/
  | rsvdBits
  deriving DecidableEq, Repr

/-- The command a well-formed word stands for: operand assembly by bit position, unsigned (R48). -/
def operands (w : Word) : Option Instr :=
  match (opField w).toNat with
  | 1 => some (.openPacket (w.extractLsb' 0 8))
  | 2 => some (.byte (w.extractLsb' 0 8))
  | 3 => some (.char (w.extractLsb' 0 21))
  | 4 => some .close
  | 5 => some .clrErr
  | _ => none

/-- `Decode(w)` of R49: an undefined opcode first, then the reserved bits, then the operands. -/
def decode (w : Word) : Decoded :=
  match operands w with
  | none => .illegalOp
  | some i => if reservedClear w then .instr i else .rsvdBits

/-- A word from its opcode field [31:28] and the 28 bits below it (R43). -/
def wordOf (op : BitVec 4) (low : BitVec 28) : Word := op ++ low

/-- The word of a command (R45, R46, R47): the operand at bit 0, every reserved bit 0. -/
def encode (i : Instr) : Word :=
  match i with
  | .openPacket sel => wordOf 0x1#4 (sel.setWidth 28)
  | .byte b => wordOf 0x2#4 (b.setWidth 28)
  | .char cp => wordOf 0x3#4 (cp.setWidth 28)
  | .close => wordOf 0x4#4 0#28
  | .clrErr => wordOf 0x5#4 0#28

/-- The low `nbits` bits of a table word as one command word; a command word is one 32-bit parallel value with no
byte order (R36, R43), and every bit above `nbits` is 0. -/
def tableWord (nbits w : Nat) : Word := BitVec.ofNat 32 (w % 2 ^ nbits)

/-- The command the decoder reads from a table word, or none where it gives a verdict. -/
def decodeTableWord (nbits w : Nat) : Option Instr :=
  match decode (tableWord nbits w) with
  | .instr i => some i
  | .illegalOp => none
  | .rsvdBits => none

end Sys2Proof
end

