-- ==== Sys2Proof/Machine/State.lean ====
section
/-! DEFINITION. The machine's state as plain data, its value after reset, and the reasons a step can stop
(10_state.md; 70_reset_and_hazards.md R119). -/

namespace Sys2Proof.Machine

/-- The IDLE encoding of `seq`: no packet open, nothing pending (R15). -/
abbrev seqIdle : BitVec 5 := 0x00#5
/-- HDR0, the first of the ten header states 0x01..0x0A (R15). -/
abbrev seqHdr0 : BitVec 5 := 0x01#5
/-- SELB: the selector is the next byte (R15). -/
abbrev seqSelb : BitVec 5 := 0x0B#5
/-- OPENW: a packet is open and the framer waits for a command (R15). -/
abbrev seqOpenw : BitVec 5 := 0x0C#5
/-- P1: one payload byte is pending (R15). -/
abbrev seqP1 : BitVec 5 := 0x0D#5
/-- P2A: both bytes of an escape pair are pending (R15). -/
abbrev seqP2a : BitVec 5 := 0x0E#5
/-- P2B: the second byte of an escape pair is pending (R15). -/
abbrev seqP2b : BitVec 5 := 0x0F#5
/-- TETX: the ETX of the trailer is the next byte (R15). -/
abbrev seqTetx : BitVec 5 := 0x10#5
/-- TEOT: the EOT of the trailer is the next byte (R15). -/
abbrev seqTeot : BitVec 5 := 0x15#5

/-- The names of the 22 used encodings of `seq` (R15). -/
inductive Phase where
  | idle
  /-- HDRk, k = 0..9. -/
  | hdr (k : Fin 10)
  | selb | openw | p1 | p2a | p2b | tetx
  /-- CKj, j = 3..0: the digit of acc[4j+3:4j]. -/
  | ck (j : Fin 4)
  | teot
  deriving DecidableEq, Repr

/-- The causes a command error can have (60_exceptions.md R103). -/
inductive Cause where
  /-- OP is 0x0 or 0x6..0xF. -/
  | illegalOp
  /-- OP is defined, but a reserved bit of its format is 1. -/
  | rsvdBits
  /-- BYTE, CHAR or CLOSE while no packet is open. -/
  | notOpen
  /-- OPEN while a packet is open. -/
  | alreadyOpen
  deriving DecidableEq, Repr

/-- The levels the outside drives on the block's inputs during one step (log 1). -/
structure Pins where
  /-- The reset input `rst` (R119). -/
  rst     : Bool
  /-- The host drives `cmd_valid` while it has a word to issue (R25); false: it withholds it. -/
  cmdEn   : Bool
  /-- The transport's `tx_ready` (R26). -/
  txReady : Bool
  deriving DecidableEq, Repr

/-- The whole machine: the block's six registers (R15 to R20), the observation (R27), and the three agents around
the block as plain data: the host's words, the input levels of this step and those of the steps to come (log 1). -/
structure State where
  /-- The packet sequencer (R15). -/
  seq    : BitVec 5
  /-- The selector, the single pending payload byte, or the first byte of an escape pair (R17). -/
  hold0  : BitVec 8
  /-- The second byte of an escape pair (R17). -/
  hold1  : BitVec 8
  /-- The checksum accumulator (R18). -/
  acc    : BitVec 16
  /-- The sticky error flag (R19). -/
  err    : Bool
  /-- The cause of the first rejection since `err` was last cleared (R20). -/
  cause  : BitVec 4
  /-- Every byte transferred to the transport, in transfer order (R27). -/
  txlog  : List (BitVec 8)
  /-- The words the host has still to issue, oldest first; the head is on `cmd_data` (R25, R123). -/
  cmdq   : List (BitVec 32)
  /-- The input levels of this step. -/
  pins   : Pins
  /-- The input levels of the steps to come, oldest first; once it is empty the pins keep their levels. -/
  script : List Pins
  deriving DecidableEq, Repr

/-- The reasons a step stops with a fault. Both are raised by `acceptGate` (for `exec` and for a word that does not
decode) and by `cycle`; both are safe: the model goes no further, and no state reachable from reset raises them. -/
inductive Fault where
  /-- `seq` holds one of the unused encodings 0x16..0x1F, which the spec makes a fault: no command is accepted and no
  byte is emitted (R16; 93 U12). Raised by `acceptGate` and `cycle`. Safe. -/
  | unusedSeq
  /-- `cause` holds one of the reserved codes 5..15, which the spec makes a fault (93 U11). Raised by `acceptGate` and
  `cycle`. Safe. -/
  | reservedCause
  deriving DecidableEq, Repr

/-- The reasons a step is refused. No command is refused: every row of the opcode table has its meaning. -/
inductive Refusal where
  /-- An instruction that has no meaning yet, by its mnemonic. Only an arm of `exec` may raise it, and none does.
  Safe. -/
  | notModelled (mnemonic : String)
  deriving DecidableEq, Repr

/-- The machine right after reset, at the start of a run (R30): the registers at R119's values, nothing transferred.
What stands around the block then is the model's choice (log 4): no word offered yet, no reset asserted, a transport
that takes every byte as soon as it is offered. -/
def State.reset : State where
  seq    := seqIdle
  hold0  := 0x00#8
  hold1  := 0x00#8
  acc    := 0x0000#16
  err    := false
  cause  := 0x0#4
  txlog  := []
  cmdq   := []
  pins   := { rst := false, cmdEn := true, txReady := true }
  script := []

end Sys2Proof.Machine
end

