-- ==== Sys2Proof/Machine/Operands.lean ====
section
/-! DEFINITION. The block's two ROMs and what is read through them: the header ROM (30_encoding.md R53) and the
escape unit, which turns CHAR's operand into bytes (42_escape.md). -/

namespace Sys2Proof.Machine

/-- NUL (R55). -/
abbrev nul : Byte := 0x00#8
/-- SOH (R55). -/
abbrev soh : Byte := 0x01#8
/-- STX (R55). -/
abbrev stx : Byte := 0x02#8
/-- ETX (R55). -/
abbrev etx : Byte := 0x03#8
/-- EOT (R55). -/
abbrev eot : Byte := 0x04#8

/-- The header ROM HDR[0..9]: five NULs, SOH, the broadcast address "Z00", STX (R53, R32). -/
def hdr : List Byte := [nul, nul, nul, nul, nul, soh, 0x5A#8, 0x30#8, 0x30#8, stx]

/-- Entry k of the header ROM (R53). -/
def hdrByte (k : Fin 10) : Byte := hdr.getD k.val nul

/-- The accented Latin letters, as ranges of code points: the capital and small letters that the Unicode standard (14.0)
names with accent marks and no other mark; an accent mark is one of its canonical decompositions, a middle dot or a stroke.
PRESUMED from that standard, since R79 names no list. A letter with a stroke and a hook (U+0284, U+1DF1A) is left out, and
so are those with a hook, bar or middle tilde only: the model's choice (log 7 lists every such kind). -/
def accentedLatin : List (Nat × Nat) :=
  [(0xC0, 0xC5), (0xC7, 0xCF), (0xD1, 0xD6), (0xD8, 0xDD), (0xE0, 0xE5), (0xE7, 0xEF), (0xF1, 0xF6),
   (0xF8, 0xFD), (0xFF, 0x130), (0x134, 0x137), (0x139, 0x148), (0x14C, 0x151), (0x154, 0x17E)]
  ++ [(0x180, 0x180), (0x197, 0x197), (0x19B, 0x19B), (0x1A0, 0x1A1), (0x1AF, 0x1B0), (0x1B5, 0x1B6), (0x1C4, 0x1C6),
      (0x1CD, 0x1DC), (0x1DE, 0x1F0), (0x1F4, 0x1F5), (0x1F8, 0x21B), (0x21E, 0x21F), (0x226, 0x233), (0x23A, 0x23C),
      (0x23E, 0x23E), (0x243, 0x243), (0x246, 0x249), (0x24C, 0x24F), (0x25F, 0x25F), (0x268, 0x268)]
  ++ [(0x1D13, 0x1D13), (0x1D7C, 0x1D7D), (0x1D7F, 0x1D7F), (0x1E00, 0x1E99), (0x1E9B, 0x1E9D), (0x1EA0, 0x1EF9),
      (0x2C63, 0x2C63), (0x2C65, 0x2C66)]
  ++ [(0xA740, 0xA745), (0xA748, 0xA74B), (0xA750, 0xA751), (0xA756, 0xA759), (0xA75E, 0xA75F), (0xA764, 0xA767),
      (0xA798, 0xA799), (0xA7A0, 0xA7A9), (0xA7B8, 0xA7B9), (0xA7C7, 0xA7CA), (0xAB3E, 0xAB3F), (0xAB41, 0xAB42),
      (0xAB44, 0xAB44)]

/-- The code points that may be keys of EXT_MAP: the accented Latin letters and nothing else (R79 point 3). -/
def mayBeKey (cp : CodePoint) : Bool := accentedLatin.any (fun r => decide (r.1 ≤ cp.toNat ∧ cp.toNat ≤ r.2))

/-- `LutLookup(cp)` (R80): EXT_MAP at `cp`, under R79's constraints. U+00E4 has the entry 08 24, U+00E9 has none,
a code point that is no accented Latin letter has none, and the rest is the OPEN parameter (log 6). -/
def lutLookup (cp : CodePoint) : Option (Byte × Byte) :=
  if cp = 0xE4#21 then some (0x08#8, 0x24#8)
  else if cp = 0xE9#21 then none
  else if mayBeKey cp then Config.extOther cp
  else none

/-- `Esc(cp)` (R81): a key's two bytes, never filtered again (R82); else the byte itself up to 0x7F (R83); else one
placeholder (R84). -/
def esc (cp : CodePoint) : List Byte :=
  match lutLookup cp with
  | some (m, c) => [m, c]
  | none => if cp.toNat ≤ 0x7F then [cp.extractLsb' 0 8] else [Config.placeholder]

/-- `escape_text(t)` (R85): each code point escaped alone, in order; no normalisation. -/
def escapeText (t : List CodePoint) : List Byte := t.flatMap esc

end Sys2Proof.Machine
end

