-- ==== Sys2Proof/Machine/Checksum.lean ====
section
/-! DEFINITION. The checksum accumulator and the rendering of its value (41_checksum.md), and the packet the block
puts on the wire (30_encoding.md R56). -/

namespace Sys2Proof.Machine

/-- `AccAdd(a, b)` (R70): the exact sum, less 65535 once if it reaches 65535. -/
def accAdd (a : Sum16) (b : Byte) : Sum16 :=
  let t := a.toNat + b.toNat
  if t ≥ Config.ckMod then BitVec.ofNat 16 (t - Config.ckMod) else BitVec.ofNat 16 t

/-- `CKSUM(s)` (R69): STX, every byte of the checksummed payload and ETX, summed exactly and reduced once
modulo 65535. -/
def cksum (s : List Byte) : Sum16 :=
  BitVec.ofNat 16 ((stx.toNat + (s.map BitVec.toNat).sum + etx.toNat) % Config.ckMod)

/-- `HexDigit(n)` (R75): the uppercase hexadecimal digit's byte. -/
def hexDigit (n : BitVec 4) : Byte :=
  if n.toNat < 10 then BitVec.ofNat 8 (0x30 + n.toNat) else BitVec.ofNat 8 (0x41 + (n.toNat - 10))

/-- The j-th digit of a value, v[4j+3:4j] (R74). -/
def hexDigitOf (v : Sum16) (j : Fin 4) : Byte := hexDigit (v.extractLsb' (4 * j.val) 4)

/-- `Hex4(v)` (R74): four digits, zero-padded, most significant first (R35). -/
def hex4 (v : Sum16) : List Byte := [hexDigitOf v 3, hexDigitOf v 2, hexDigitOf v 1, hexDigitOf v 0]

/-- `Packet(sel, body)` (R56): header, selector, body, ETX, the four checksum digits, EOT. -/
def packet (sel : Byte) (body : List Byte) : List Byte :=
  hdr ++ [sel] ++ body ++ [etx] ++ hex4 (cksum (sel :: body)) ++ [eot]

end Sys2Proof.Machine
end

