-- ==== Sys2Proof/Machine/Flags.lean ====
section
/-! DEFINITION. What is computed from the state and stored nowhere: the sequencer's named phases, `open_f` and `busy`,
the pending bytes, the output channel, and the registers the host reads (10_state.md R15, R21 to R26). -/

namespace Sys2Proof.Machine

/-- The phase an encoding of `seq` names; none for the unused encodings 0x16..0x1F (R15, R16). -/
def phaseOf (q : BitVec 5) : Option Phase :=
  match q.toNat with
  | 0x00 => some .idle
  | 0x01 => some (.hdr 0)
  | 0x02 => some (.hdr 1)
  | 0x03 => some (.hdr 2)
  | 0x04 => some (.hdr 3)
  | 0x05 => some (.hdr 4)
  | 0x06 => some (.hdr 5)
  | 0x07 => some (.hdr 6)
  | 0x08 => some (.hdr 7)
  | 0x09 => some (.hdr 8)
  | 0x0A => some (.hdr 9)
  | 0x0B => some .selb
  | 0x0C => some .openw
  | 0x0D => some .p1
  | 0x0E => some .p2a
  | 0x0F => some .p2b
  | 0x10 => some .tetx
  | 0x11 => some (.ck 3)
  | 0x12 => some (.ck 2)
  | 0x13 => some (.ck 1)
  | 0x14 => some (.ck 0)
  | 0x15 => some .teot
  | _ => none

/-- `seq` is in 0x00..0x15 (R16, R59). -/
def seqLegal (s : State) : Bool := decide (s.seq.toNat ≤ 0x15)

/-- `cause` is none of the reserved codes 5..15 (R103). -/
def causeLegal (s : State) : Bool := decide (s.cause.toNat ≤ 4)

/-- The flag `open_f` (R21): seq is in 0x01..0x0F. -/
def openF (s : State) : Bool := decide (0x01 ≤ s.seq.toNat ∧ s.seq.toNat ≤ 0x0F)

/-- The flag `busy` (R21): seq is neither IDLE nor OPENW. -/
def busy (s : State) : Bool := s.seq != seqIdle && s.seq != seqOpenw

/-- The byte a phase emits, the column "next byte emitted" of R15's table and R64's `NextByte`. -/
def phaseByte (s : State) (p : Phase) : Option Byte :=
  match p with
  | .idle => none
  | .hdr k => some (hdrByte k)
  | .selb => some s.hold0
  | .openw => none
  | .p1 => some s.hold0
  | .p2a => some s.hold0
  | .p2b => some s.hold1
  | .tetx => some etx
  | .ck j => some (hexDigitOf s.acc j)
  | .teot => some eot

/-- `NextByte()` (R64); none while nothing is pending. -/
def nextByte (s : State) : Option Byte := (phaseOf s.seq).bind (phaseByte s)

/-- The sequencer state after an emission, the last column of R15's table and R65. -/
def phaseAfter (p : Phase) : Option (BitVec 5) :=
  match p with
  | .idle => none
  | .hdr k => some (BitVec.ofNat 5 (k.val + 2))
  | .selb => some seqOpenw
  | .openw => none
  | .p1 => some seqOpenw
  | .p2a => some seqP2b
  | .p2b => some seqOpenw
  | .tetx => some 0x11#5
  | .ck j => some (BitVec.ofNat 5 (0x15 - j.val))
  | .teot => some seqIdle

/-- The next `seq` of an emission step (R65); none while nothing is pending. -/
def nextSeq (s : State) : Option (BitVec 5) := (phaseOf s.seq).bind phaseAfter

/-- The bytes a phase has still to emit (R22). -/
def phasePend (s : State) (p : Phase) : List Byte :=
  match p with
  | .idle => []
  | .hdr k => hdr.drop k.val ++ [s.hold0]
  | .selb => [s.hold0]
  | .openw => []
  | .p1 => [s.hold0]
  | .p2a => [s.hold0, s.hold1]
  | .p2b => [s.hold1]
  | .tetx => [etx] ++ hex4 s.acc ++ [eot]
  | .ck j => (hex4 s.acc).drop (3 - j.val) ++ [eot]
  | .teot => [eot]

/-- `pend`, the bytes still to be emitted (R22); nothing in an unused encoding (R16). -/
def pend (s : State) : List Byte :=
  match phaseOf s.seq with
  | some p => phasePend s p
  | none => []

/-- `cmd_ready` = NOT `busy` (R25). -/
def cmdReady (s : State) : Bool := !busy s

/-- `tx_valid` = `busy` (R26). -/
def txValid (s : State) : Bool := busy s

/-- `tx_data` (R26, R64): the next byte while valid; the block drives 0x00 while not (log 16). DESIGN CHOICE: in an unused
encoding of `seq`, where `tx_valid` = 1 but there is no next byte and the spec gives no value, 0x00 too (log 33). -/
def txData (s : State) : Byte := (nextByte s).getD 0x00#8

/-- `cmd_valid` with `cmd_data` (R25): the word on the command channel in this step, if any. -/
def offered (s : State) : Option Word := if s.pins.cmdEn then s.cmdq.head? else none

/-- STATUS, register 1 (R23): [15:13] 0, [12:8] SEQ, [7:4] CAUSE, [3] 0, [2] ERR, [1] BUSY, [0] OPEN. -/
def statusReg (s : State) : BitVec 16 :=
  0#3 ++ (s.seq ++ (s.cause ++ (0#1 ++
    (BitVec.ofBool s.err ++ (BitVec.ofBool (busy s) ++ BitVec.ofBool (openF s))))))

/-- ACC, register 2 (R24). -/
def accReg (s : State) : BitVec 16 := s.acc

/-- What the host reads from register n: STATUS is 1 and ACC is 2; CMD, register 0, has no readable value, and the
block has no other register (R23 to R25). A read changes nothing (R38). -/
def regRead (n : Nat) (s : State) : Option (BitVec 16) :=
  match n with
  | 1 => some (statusReg s)
  | 2 => some (accReg s)
  | _ => none

end Sys2Proof.Machine
end

