-- ==== Sys2Proof/Machine/Ops.lean ====
section
/-! DEFINITION. The named operations on the state: the error entry and the return from it (60_exceptions.md R105,
R109), queueing bytes for output, the gate every accepted command passes (40_framing.md R59), the emission step (R65),
reset (70_reset_and_hazards.md R119), and the movement of the inputs from one step to the next (log 1). -/

namespace Sys2Proof.Machine

/-- The code of a cause in `cause` and STATUS.CAUSE (R103). -/
def causeCode (c : Cause) : BitVec 4 :=
  match c with
  | .illegalOp => 1#4
  | .rsvdBits => 2#4
  | .notOpen => 3#4
  | .alreadyOpen => 4#4

/-- `raise CmdError(c)` (R105): the error flag and the cause, and nothing else. -/
def cmdError (c : Cause) (s : State) : State := { s with err := true, cause := causeCode c }

/-- The return from the error state (R63, R109): the error cleared, any open packet abandoned, ACC cleared; the
holding registers stay. -/
def clearError (s : State) : State :=
  { s with err := false, cause := 0#4, seq := seqIdle, acc := 0#16 }

/-- Queue one payload byte: hold it, add it to the checksum, go to P1 (R61, R78). -/
def queueOne (b : Byte) (s : State) : State :=
  { s with hold0 := b, acc := accAdd s.acc b, seq := seqP1 }

/-- Queue an escape pair: hold both bytes, add both to the checksum, go to P2A (R78). -/
def queueTwo (m c : Byte) (s : State) : State :=
  { s with hold0 := m, hold1 := c, acc := accAdd (accAdd s.acc m) c, seq := seqP2a }

/-- Queue the header and the selector: the checksum starts again at STX + sel (R60). -/
def queueHeader (sel : Byte) (s : State) : State :=
  { s with hold0 := sel, acc := accAdd 0x0002#16 sel, seq := seqHdr0 }

/-- Queue the trailer: add the ETX to the checksum, go to TETX (R62). -/
def queueTrailer (s : State) : State := { s with acc := accAdd s.acc etx, seq := seqTetx }

/-- Run `act` only while `err` = 0; while `err` = 1 the command is discarded and no state changes (R107). -/
def unlessError (act : State → State) (s : State) : State := if s.err then s else act s

/-- The sequence check of BYTE, CHAR and CLOSE: NOT_OPEN unless seq is OPENW (R61, R62, R78). -/
def needOpen (act : State → State) (s : State) : State :=
  if s.seq = seqOpenw then act s else cmdError .notOpen s

/-- The sequence check of OPEN: ALREADY_OPEN unless seq is IDLE (R60). -/
def needIdle (act : State → State) (s : State) : State :=
  if s.seq = seqIdle then act s else cmdError .alreadyOpen s

/-- What stands before every command (R59): an unused `seq` (R16) or a reserved cause (93 U11) is a fault; while
`busy` = 1 the word is not accepted, so nothing changes and the host holds it (log 10); else the command's action. -/
def acceptGate (act : State → State) (s : State) : Host.Outcome State Fault Refusal :=
  if seqLegal s = false then .fault .unusedSeq
  else if causeLegal s = false then .fault .reservedCause
  else if busy s then .next s
  else .next (act s)

/-- `EmitStep()` (R65): the next byte joins the observation (`Emit`, R66) and `seq` advances; nothing else changes.
With nothing pending there is no such step. -/
def emitStep (s : State) : State :=
  match nextByte s, nextSeq s with
  | some b, some q => { s with txlog := s.txlog ++ [b], seq := q }
  | _, _ => s

/-- `Reset()` (R119): the six registers at their reset values; the bytes already transferred stay (R120), and the
host's words stay with the host. -/
def resetBlock (s : State) : State :=
  { s with seq := seqIdle, hold0 := 0#8, hold1 := 0#8, acc := 0#16, err := false, cause := 0#4 }

/-- The accepted word leaves the command channel (R105: accepted words are consumed, rejected ones too). -/
def popWord (s : State) : State := { s with cmdq := s.cmdq.tail }

/-- The step is over: the next entry of the script gives the input levels; with none left they stay (log 1). -/
def tick (s : State) : State :=
  match s.script with
  | [] => s
  | p :: rest => { s with pins := p, script := rest }

/-- The host offers a word before all others and withholds nothing, and reset is not asserted: what the next step
needs to accept it (log 5). -/
def offerWord (w : Word) (s : State) : State :=
  { s with cmdq := w :: s.cmdq, pins := { s.pins with rst := false, cmdEn := true } }

end Sys2Proof.Machine
end

