-- ==== Sys2Proof/Machine/Framing.lean ====
section
/-! DEFINITION. The packet sequencer commands OPEN, BYTE, CLOSE and CLRERR (40_framing.md). -/

namespace Sys2Proof.Machine

/-- OPEN sel (R60): ALREADY_OPEN while a packet is open; else the header and the selector are queued. -/
def execOpen (sel : Byte) (s : State) : Host.Outcome State Fault Refusal :=
  acceptGate (unlessError (needIdle (queueHeader sel))) s

/-- BYTE b (R61): NOT_OPEN while no packet is open; else the byte is queued as it is. -/
def execByte (b : Byte) (s : State) : Host.Outcome State Fault Refusal :=
  acceptGate (unlessError (needOpen (queueOne b))) s

/-- CLOSE (R62): NOT_OPEN while no packet is open; else the trailer is queued. -/
def execClose (s : State) : Host.Outcome State Fault Refusal :=
  acceptGate (unlessError (needOpen queueTrailer)) s

/-- CLRERR (R63): the one command that runs while `err` = 1 too. -/
def execClrErr (s : State) : Host.Outcome State Fault Refusal :=
  acceptGate clearError s

end Sys2Proof.Machine
end

