-- ==== Sys2Proof/Machine/Text.lean ====
section
/-! DEFINITION. The text command CHAR (42_escape.md R78). -/

namespace Sys2Proof.Machine

/-- Queue what the escape unit makes of a code point: a pair, or one byte (R78). -/
def queueEsc (cp : CodePoint) (s : State) : State :=
  match esc cp with
  | [m, c] => queueTwo m c s
  | [b] => queueOne b s
  | _ => s

/-- CHAR cp (R78): NOT_OPEN while no packet is open; else `Esc(cp)` is queued. No code point is an error. -/
def execChar (cp : CodePoint) (s : State) : Host.Outcome State Fault Refusal :=
  acceptGate (unlessError (needOpen (queueEsc cp))) s

end Sys2Proof.Machine
end

