-- ==== Sys2Proof/Machine/Dispatch.lean ====
section
/-! DEFINITION. exec: the acceptance of one well-formed command, one arm per constructor of Instr (40_framing.md R59). -/

namespace Sys2Proof.Machine

def exec (i : Instr) (s : State) : Host.Outcome State Fault Refusal :=
  match i with
  | .openPacket sel => Sys2Proof.Machine.execOpen sel s
  | .byte b => Sys2Proof.Machine.execByte b s
  | .char cp => Sys2Proof.Machine.execChar cp s
  | .close => Sys2Proof.Machine.execClose s
  | .clrErr => Sys2Proof.Machine.execClrErr s

end Sys2Proof.Machine
end

