-- ==== Sys2Proof/Machine/Accept.lean ====
section
/-! DEFINITION. AcceptCommand on any word (40_framing.md R59), and one whole step of the machine with its four agents
(10_state.md R13). -/

namespace Sys2Proof.Machine

/-- A word that is no command is rejected with the decoder's verdict as its cause, or discarded while `err` = 1
(R59, R104, R107). -/
def rejectWord (c : Cause) (s : State) : Host.Outcome State Fault Refusal :=
  acceptGate (unlessError (cmdError c)) s

/-- `AcceptCommand(w)` (R59). The order of the checks is R106's: `err` = 1, ILLEGAL_OP, RSVD_BITS, then the sequence
check inside the command's meaning. -/
def acceptCommand (w : Word) (s : State) : Host.Outcome State Fault Refusal :=
  match decode w with
  | .illegalOp => rejectWord .illegalOp s
  | .rsvdBits => rejectWord .rsvdBits s
  | .instr i => exec i s

/-- One step. Reset, if asserted, is the whole step, in any state (R119). Else an unused `seq` or a reserved cause is a
fault (R16; 93 U11). Else, while `busy` = 1, the transport takes one byte if it is ready (R65), and the host's word
waits (R123). Else a word on the channel is consumed and accepted (R59), and with none the block holds its state
(R115). In each case the inputs then take their next levels. -/
def cycle (s : State) : Host.Outcome State Fault Refusal :=
  if s.pins.rst then .next (tick (resetBlock s))
  else if seqLegal s = false then .fault .unusedSeq
  else if causeLegal s = false then .fault .reservedCause
  else if busy s then .next (tick (if s.pins.txReady then emitStep s else s))
  else
    match offered s with
    | none => .next (tick s)
    | some w => acceptCommand w (tick (popWord s))

end Sys2Proof.Machine
end

