-- ==== Sys2Proof/Machine/Step.lean ====
section
/-! DEFINITION. The step, and the state in which the next step accepts a given table word. -/

namespace Sys2Proof.Machine

/-- One step of the machine: the next state, a fault, or a refusal. -/
def step (s : State) : Host.Outcome State Fault Refusal := cycle s

/-- `s` with the table word offered on the command channel (log 5). The framer fetches nothing: the word is accepted by
the very next step when the block is not busy, as after reset, and else by the first step that finds it so. -/
def State.withFetchWord (s : State) (nbits w : Nat) : State := offerWord (tableWord nbits w) s

end Sys2Proof.Machine
end

