-- ==== Sys2Proof/Machine/Pseudo.lean ====
section
/-! DEFINITION. The assembler's side of the commands (host software, not the block): the command-selector enumeration
(30_encoding.md R54), the pseudo-instructions (R57), what a command adds to a packet's body (40_framing.md R67), and
assembling one line (R52). -/

namespace Sys2Proof.Machine

/-- The command kinds of the protocol (R54). -/
inductive CommandKind where
  | writeText | writeSpecial | readSpecial | writeString | writeSmallDots | writeRgb | writeLargeDots
  deriving DecidableEq, Repr

/-- The selector byte of a command kind (R54). The framer does not check it (R48). -/
def selector (k : CommandKind) : Byte :=
  match k with
  | .writeText => 0x41#8
  | .writeSpecial => 0x45#8
  | .readSpecial => 0x46#8
  | .writeString => 0x47#8
  | .writeSmallDots => 0x49#8
  | .writeRgb => 0x4B#8
  | .writeLargeDots => 0x4D#8

/-- `BYTES b0, ..., bn` (R57). -/
def bytesSeq (bs : List Byte) : List Instr := bs.map .byte

/-- `TEXT "s"`: one CHAR per code point, nothing for an empty text (R57). -/
def textSeq (t : List CodePoint) : List Instr := t.map .char

/-- `FRAME sel, body` (R57), which is the source's `encode(sel, body)` (R58). -/
def frameSeq (sel : Byte) (body : List Byte) : List Instr := [.openPacket sel] ++ bytesSeq body ++ [.close]

/-- BYTE and CHAR are the commands that give a packet its body (R67). -/
def isPayload (i : Instr) : Bool :=
  match i with
  | .openPacket _ => false
  | .byte _ => true
  | .char _ => true
  | .close => false
  | .clrErr => false

/-- What a command adds to the body: a BYTE its byte, a CHAR its `Esc(cp)` (R67). -/
def bodyOf (i : Instr) : List Byte :=
  match i with
  | .openPacket _ => []
  | .byte b => [b]
  | .char cp => esc cp
  | .close => []
  | .clrErr => []

/-- The body of a packet: what its commands add, in command order (R67). -/
def bodyBytes (cmds : List Instr) : List Byte := cmds.flatMap bodyOf

/-- An operand of an assembler line: a number, a character literal, or TEXT's string (R52, R57). -/
inductive AsmOperand where
  | num (n : Nat)
  | chr (c : Char)
  | str (cs : List Char)
  deriving DecidableEq, Repr

/-- An 8-bit operand: a number 0..255, or a character literal, which stands for its ASCII value and so must have one
(R52, log 26); else an assembly error. -/
def asmByte (o : AsmOperand) : Option Byte :=
  match o with
  | .num n => if n ≤ 0xFF then some (BitVec.ofNat 8 n) else none
  | .chr c => if c.toNat ≤ 0x7F then some (BitVec.ofNat 8 c.toNat) else none
  | .str _ => none

/-- CHAR's operand: a number 0..0x1FFFFF, or a character literal, which stands for its code point (R52). -/
def asmCodePoint (o : AsmOperand) : Option CodePoint :=
  match o with
  | .num n => if n ≤ 0x1FFFFF then some (BitVec.ofNat 21 n) else none
  | .chr c => some (BitVec.ofNat 21 c.toNat)
  | .str _ => none

/-- The 8-bit operands of a list, or an assembly error if one of them is none. -/
def asmBytes (os : List AsmOperand) : Option (List Byte) :=
  match os with
  | [] => some []
  | o :: rest =>
    match asmByte o, asmBytes rest with
    | some b, some bs => some (b :: bs)
    | _, _ => none

/-- The mnemonics of the assembler, in capitals: the five commands (R52) and the pseudo-instructions (R57). -/
inductive Mnemonic where
  | openCmd | byteCmd | charCmd | closeCmd | clrErrCmd
  | openKind (k : CommandKind)
  | bytes | text | frame
  deriving DecidableEq, Repr

/-- Every mnemonic with its spelling in capitals (R52, R57). -/
def mnemonicTable : List (List Char × Mnemonic) :=
  [(['O', 'P', 'E', 'N'], .openCmd),
   (['B', 'Y', 'T', 'E'], .byteCmd),
   (['C', 'H', 'A', 'R'], .charCmd),
   (['C', 'L', 'O', 'S', 'E'], .closeCmd),
   (['C', 'L', 'R', 'E', 'R', 'R'], .clrErrCmd),
   (['O', 'P', 'E', 'N', '.', 'T', 'E', 'X', 'T'], .openKind .writeText),
   (['O', 'P', 'E', 'N', '.', 'S', 'P', 'E', 'C', 'I', 'A', 'L'], .openKind .writeSpecial),
   (['O', 'P', 'E', 'N', '.', 'R', 'E', 'A', 'D'], .openKind .readSpecial),
   (['O', 'P', 'E', 'N', '.', 'S', 'T', 'R', 'I', 'N', 'G'], .openKind .writeString),
   (['O', 'P', 'E', 'N', '.', 'S', 'M', 'A', 'L', 'L', 'D', 'O', 'T', 'S'], .openKind .writeSmallDots),
   (['O', 'P', 'E', 'N', '.', 'R', 'G', 'B'], .openKind .writeRgb),
   (['O', 'P', 'E', 'N', '.', 'L', 'A', 'R', 'G', 'E', 'D', 'O', 'T', 'S'], .openKind .writeLargeDots)]
  ++ [(['B', 'Y', 'T', 'E', 'S'], .bytes), (['T', 'E', 'X', 'T'], .text), (['F', 'R', 'A', 'M', 'E'], .frame)]

/-- A mnemonic as written, in capitals or not (R52). -/
def mnemonicOf (cs : List Char) : Option Mnemonic :=
  (mnemonicTable.find? (fun row => row.1 == cs.map Char.toUpper)).map Prod.snd

/-- One assembler line to its commands; none is an assembly error, which emits no word (R52, R57). -/
def assembleLine (m : Mnemonic) (os : List AsmOperand) : Option (List Instr) :=
  match m, os with
  | .openCmd, [o] => (asmByte o).map (fun b => [.openPacket b])
  | .byteCmd, [o] => (asmByte o).map (fun b => [.byte b])
  | .charCmd, [o] => (asmCodePoint o).map (fun c => [.char c])
  | .closeCmd, [] => some [.close]
  | .clrErrCmd, [] => some [.clrErr]
  | .openKind k, [] => some [.openPacket (selector k)]
  | .bytes, o :: rest => (asmBytes (o :: rest)).map bytesSeq
  | .text, [.str cs] => some (textSeq (cs.map (fun c => BitVec.ofNat 21 c.toNat)))
  | .frame, o :: body =>
    match asmByte o, asmBytes body with
    | some sel, some bs => some (frameSeq sel bs)
    | _, _ => none
  | _, _ => none

/-- The words of one assembler line (R52). -/
def assembleWords (cs : List Char) (os : List AsmOperand) : Option (List Word) :=
  ((mnemonicOf cs).bind (fun m => assembleLine m os)).map (fun is => is.map encode)

end Sys2Proof.Machine
end

