-- ==== Sys2Proof/Machine/Builder.lean ====
section
/-! DEFINITION. The host's Command Builder (43_command_builder.md): each operation as the commands it expands into. It is
host software, not part of the block (00_scope.md R5); what the source leaves open are opaque constants of Config. -/

namespace Sys2Proof.Machine

/-- ESC (R11). -/
abbrev escByte : Byte := 0x1B#8

/-- A time of day (R92). -/
structure TimeOfDay where
  hour   : Fin 24
  minute : Fin 60
  deriving DecidableEq, Repr

/-- A calendar date (R94). -/
structure Date where
  year  : Nat
  month : Nat
  day   : Nat
  deriving DecidableEq, Repr

/-- The host's operations (R88, R90 to R99). A file label is a character, given by its code point. -/
inductive HostOp where
  | writeText (label : CodePoint) (mode : String) (text : List CodePoint)
  | writeString (label : CodePoint) (text : List CodePoint)
  | setTime (t : TimeOfDay)
  | setWeekday (d : Weekday)
  | setDate (d : Date)
  | setTimeFormat (useAmPm : Bool)
  | sound (enabled : Bool)
  | softReset
  | setMemoryMap
  | readErrorRegister
  | readMemorySize
  deriving DecidableEq, Repr

/-- One ASCII decimal digit (R11). -/
def asciiDigit (n : Nat) : Byte := BitVec.ofNat 8 (0x30 + n % 10)

/-- Two ASCII decimal digits, zero-padded (R92, R94). -/
def twoDigits (n : Nat) : List Byte := [asciiDigit (n / 10), asciiDigit n]

/-- The members of the display-mode enumeration the source names beside 'rotate' (R89); its list goes on with "…". -/
def namedModes : List String :=
  ["hold", "flash", "roll-up", "roll-down", "roll-left", "roll-right", "twinkle", "sparkle", "snow"]

/-- The display-mode table at a name: 'rotate' and the other members the source names are in it, the empty name is not,
and the rest is open (R89, log 19). -/
def modeLookup (m : String) : Option ModeCode :=
  if m = "rotate" then some Config.rotateCode
  else if m ∈ namedModes then some (Config.namedModeCode m)
  else if m = "" then none
  else Config.modeTable m

/-- A mode name is in the display-mode table. -/
def modeKnown (m : String) : Bool := (modeLookup m).isSome

/-- `MODE_CODE` (R89): total; a name outside the table has rotate's code. -/
def modeCode (m : String) : ModeCode := (modeLookup m).getD Config.rotateCode

/-- The one or two bytes of a mode code (R89). -/
def modeBytes (c : ModeCode) : List Byte :=
  match c with
  | .one b => [b]
  | .two b c => [b, c]

/-- `ARG_TIME`: HHMM, four ASCII digits; which number the hour digits show is open (R92, log 20). -/
def argTime (t : TimeOfDay) : List Byte := twoDigits (Config.shownHour t.hour).val ++ twoDigits t.minute.val

/-- `ARG_WEEKDAY`: one digit '0'..'6' (R93). -/
def argWeekday (d : Weekday) : List Byte := [asciiDigit (Config.weekdayNumber d).val]

/-- `ARG_DATE`: MMDDYY with YY = year mod 100 (R94). -/
def argDate (d : Date) : List Byte := twoDigits d.month ++ twoDigits d.day ++ twoDigits (d.year % 100)

/-- `ARG_TIMEFMT`: "S" for am/pm, else "M" (R95). -/
def argTimeFmt (useAmPm : Bool) : List Byte := if useAmPm then [0x53#8] else [0x4D#8]

/-- `ARG_SOUND`: "FF" when enabled, else "00" (R96). -/
def argSound (enabled : Bool) : List Byte := if enabled then [0x46#8, 0x46#8] else [0x30#8, 0x30#8]

/-- The five text-file slots 'A'..'E': 256 bytes each, run-time flag "always" (R98). -/
def textSlots : List Slot :=
  [0x41#8, 0x42#8, 0x43#8, 0x44#8, 0x45#8].map
    (fun c => { label := [c], kind := .text, capacity := 256, runAlways := true })

/-- The ten string-file slots "1".."10": 125 bytes each; the tenth label is two characters (R98; 90_conflicts.md C3). -/
def stringSlots : List Slot :=
  [[0x31#8], [0x32#8], [0x33#8], [0x34#8], [0x35#8], [0x36#8], [0x37#8], [0x38#8], [0x39#8], [0x31#8, 0x30#8]].map
    (fun l => { label := l, kind := .string, capacity := 125, runAlways := false })

/-- The fifteen slots in the spec's default order: text files first, then string files, in label order (R98). -/
def defaultSlots : List Slot := textSlots ++ stringSlots

/-- d1..d15, the fifteen slots in the order their descriptors are sent, which is open (R98, log 24). -/
def memorySlots : List Slot := (List.finRange 15).map (fun k => defaultSlots.get (Config.slotOrder k))

/-- `MEMMAP_DESCRIPTOR(d)`: the slot's layout string with its fixed suffix (R98). -/
def memmapDescriptor (d : Slot) : List Byte := Config.memmapLayout d ++ Config.memmapSuffix d.kind

/-- The selector of an operation's packet (R88, R90, R91, R98, R99). -/
def opSelector (op : HostOp) : Byte :=
  match op with
  | .writeText _ _ _ => selector .writeText
  | .writeString _ _ => selector .writeString
  | .setTime _ => selector .writeSpecial
  | .setWeekday _ => selector .writeSpecial
  | .setDate _ => selector .writeSpecial
  | .setTimeFormat _ => selector .writeSpecial
  | .sound _ => selector .writeSpecial
  | .softReset => selector .writeSpecial
  | .setMemoryMap => selector .writeSpecial
  | .readErrorRegister => selector .readSpecial
  | .readMemorySize => selector .readSpecial

/-- The common body of write_special: a sub-command byte and a formatted argument, unescaped (R91). -/
def special (c : SubCmd) (arg : List Byte) : List Instr := .byte (Config.subcmd c) :: bytesSeq arg

/-- The body of an operation's packet as BYTE and CHAR commands; only a text argument goes through the escape unit
(R86, R88, R90 to R99). -/
def opBody (op : HostOp) : List Instr :=
  match op with
  | .writeText label mode text =>
    [.byte (label.extractLsb' 0 8), .byte escByte, .byte 0x20#8] ++ bytesSeq (modeBytes (modeCode mode)) ++ textSeq text
  | .writeString label text => [.byte (label.extractLsb' 0 8)] ++ textSeq text
  | .setTime t => special .time (argTime t)
  | .setWeekday d => special .weekday (argWeekday d)
  | .setDate d => special .date (argDate d)
  | .setTimeFormat b => special .timeFmt (argTimeFmt b)
  | .sound b => special .sound (argSound b)
  | .softReset => special .reset Config.argReset
  | .setMemoryMap => special .memMap (memorySlots.flatMap memmapDescriptor)
  | .readErrorRegister => special .readErr []
  | .readMemorySize => special .memSize []

/-- An operation has an expansion: its file label is one byte in 0x00..0x7F (R88, R90), its date is a month and a day
of the calendar (R94). -/
def opWellFormed (op : HostOp) : Bool :=
  match op with
  | .writeText label _ _ => decide (label.toNat ≤ 0x7F)
  | .writeString label _ => decide (label.toNat ≤ 0x7F)
  | .setTime _ => true
  | .setWeekday _ => true
  | .setDate d => decide (1 ≤ d.month ∧ d.month ≤ 12 ∧ 1 ≤ d.day ∧ d.day ≤ 31)
  | .setTimeFormat _ => true
  | .sound _ => true
  | .softReset => true
  | .setMemoryMap => true
  | .readErrorRegister => true
  | .readMemorySize => true

/-- The expansion of an operation (R87): OPEN with its selector, its body, CLOSE; none where it has no expansion. -/
def expandOp (op : HostOp) : Option (List Instr) :=
  if opWellFormed op then some ([.openPacket (opSelector op)] ++ opBody op ++ [.close]) else none

/-- What the host driver sends when it is constructed, if its flag `sync_clock_on_connect` is true: the time, the weekday
and the time format, in this order (R101, 70_reset_and_hazards.md R122). -/
def startUpOps (syncClock : Bool) (t : TimeOfDay) (d : Weekday) (useAmPm : Bool) : List HostOp :=
  if syncClock then [.setTime t, .setWeekday d, .setTimeFormat useAmPm] else []

end Sys2Proof.Machine
end

