-- ==== Sys2Proof/Safety.lean ====
section
/-! DEFINITION. What counts as a safe run, in the terms the claims use: the invariants of reachable states
(10_state.md R28), runs without reset, and runs that differ in timing only. -/

namespace Sys2Proof.Safety

open Sys2Proof.Machine

/-- The invariants of R28: a used `seq`; `acc` <= 65534; the cause is 0 without an error and 1..4 with one; an error
only while nothing is pending. -/
structure StateInv (s : State) : Prop where
  seqUsed    : s.seq.toNat ≤ 0x15
  accRange   : s.acc.toNat ≤ 65534
  noErrCause : s.err = false → s.cause = 0#4
  errCause   : s.err = true → 1 ≤ s.cause.toNat ∧ s.cause.toNat ≤ 4
  errDrained : s.err = true → busy s = false

/-- The registers of the block are at their reset values (R30); the agents around it may stand anyhow. -/
def JustReset (s : State) : Prop :=
  s.seq = seqIdle ∧ s.hold0 = 0#8 ∧ s.hold1 = 0#8 ∧ s.acc = 0#16 ∧ s.err = false ∧ s.cause = 0#4

/-- Reset is asserted neither in this step nor in one to come. -/
def NoReset (s : State) : Prop := s.pins.rst = false ∧ ∀ p ∈ s.script, p.rst = false

/-- The inputs of a host that withholds nothing and a transport that takes every byte as soon as it is offered, for
ever (95_test_vectors.md section 3). -/
def Prompt (s : State) : Prop := s.pins = { rst := false, cmdEn := true, txReady := true } ∧ s.script = []

/-- Two states that differ in the input levels only, now and to come: the same block, log and words. -/
def SameButTiming (s t : State) : Prop := t = { s with pins := t.pins, script := t.script }

/-- The inputs of the agents and the observation are the same in both states. -/
def SameOutside (s t : State) : Prop :=
  t.txlog = s.txlog ∧ t.cmdq = s.cmdq ∧ t.pins = s.pins ∧ t.script = s.script

/-- Byte `b` is on `tx_data`, and in this step the transport takes it and the sequencer goes to `q`: nothing else of the
block changes, and the host's words stay on the channel (40_framing.md R64, R65). -/
def Emits (s : State) (b : Byte) (q : BitVec 5) : Prop :=
  txData s = b ∧ ∃ t, step s = .next t ∧ t.txlog = s.txlog ++ [b] ∧ t.seq = q ∧ t.acc = s.acc ∧ t.hold0 = s.hold0 ∧
    t.hold1 = s.hold1 ∧ t.err = s.err ∧ t.cause = s.cause ∧ t.cmdq = s.cmdq

/-- The host's words wait on the channel in the next step, and that is no error (40_framing.md R59, R60). -/
def WordWaits (s : State) : Prop :=
  ∃ t, step s = .next t ∧ t.cmdq = s.cmdq ∧ t.err = s.err ∧ t.cause = s.cause

/-- k steps of the machine (Host/Core.lean). -/
def run (k : Nat) (s : State) : Host.Outcome State Fault Refusal := Sys2Proof.core.run k s

/-- The number an uppercase hexadecimal digit's byte stands for (R75), or none. -/
def hexDigitValue (b : Byte) : Option Nat :=
  if 0x30 ≤ b.toNat ∧ b.toNat ≤ 0x39 then some (b.toNat - 0x30)
  else if 0x41 ≤ b.toNat ∧ b.toNat ≤ 0x46 then some (b.toNat - 0x41 + 10)
  else none

/-- A numeral of uppercase hexadecimal digits, most significant first, read back after the value `v` so far. -/
def parseHex (v : Nat) : List Byte → Option Nat
  | [] => some v
  | b :: rest =>
    match hexDigitValue b with
    | some d => parseHex (16 * v + d) rest
    | none => none

end Sys2Proof.Safety
end

