-- ==== Sys2Proof/Certificates/Slice0/Obligations.lean ====
section
/-! DEFINITION. The statements for the provers, from the numbered rules of spec/. Each docstring names the rules a
statement formalises; a statement about every state holds in states no run reaches, or has `Safety.StateInv` (R28) as its
premise. -/

open Sys2Proof Sys2Proof.Machine Sys2Proof.Safety

/-! ### Reset -/

/-- R30: the value of every state element at reset and what is observable then; a reset step erases no byte already
transferred. -/
def Obligations.ResetValues : Prop :=
  State.reset.seq = 0x00#5 ∧ State.reset.hold0 = 0x00#8 ∧ State.reset.hold1 = 0x00#8 ∧ State.reset.acc = 0x0000#16 ∧
  State.reset.err = false ∧ State.reset.cause = 0x0#4 ∧ State.reset.txlog = [] ∧
  statusReg State.reset = 0x0000#16 ∧ accReg State.reset = 0x0000#16 ∧
  cmdReady State.reset = true ∧ txValid State.reset = false ∧
  ∀ s : State, s.pins.rst = true → ∃ t, step s = .next t ∧ t.txlog = s.txlog

/-- R119, R120: reset is a step that happens in any state (no other premise), sets the six registers, discards what is
pending and any open packet, accepts no word and transfers no byte. -/
def Obligations.ResetStepClearsBlock : Prop :=
  ∀ s : State, s.pins.rst = true →
    ∃ t, step s = .next t ∧ JustReset t ∧ t.txlog = s.txlog ∧ t.cmdq = s.cmdq ∧ pend t = [] ∧ openF t = false ∧
      cmdReady t = true ∧ txValid t = false ∧ statusReg t = 0x0000#16 ∧ accReg t = 0x0000#16

/-! ### Commands and their words -/

/-- 95_test_vectors.md sections 2.2 to 2.4 and 3: the verdicts on words written out there. -/
def Obligations.DecodeSampleWords : Prop :=
  decode 0x10000047#32 = .instr (.openPacket 0x47#8) ∧ decode 0x100000FA#32 = .instr (.openPacket 0xFA#8) ∧
  decode 0x20000031#32 = .instr (.byte 0x31#8) ∧ decode 0x300000E4#32 = .instr (.char 0xE4#21) ∧
  decode 0x301FFFFF#32 = .instr (.char 0x1FFFFF#21) ∧ decode 0x40000000#32 = .instr .close ∧
  decode 0x50000000#32 = .instr .clrErr ∧ decode 0x00000000#32 = .illegalOp ∧ decode 0xF0000000#32 = .illegalOp ∧
  decode 0x10000100#32 = .rsvdBits ∧ decode 0x30200000#32 = .rsvdBits ∧ decode 0x50000001#32 = .rsvdBits

/-- R49, in the arithmetic of the word's number: OP is w / 2^28, and every word gets exactly one verdict. -/
def Obligations.DecodeFollowsBitFields : Prop :=
  ∀ w : Word,
    (w.toNat / 2 ^ 28 = 0x1 → decode w =
      if w.toNat / 2 ^ 8 % 2 ^ 20 ≠ 0 then .rsvdBits else .instr (.openPacket (BitVec.ofNat 8 (w.toNat % 2 ^ 8)))) ∧
    (w.toNat / 2 ^ 28 = 0x2 → decode w =
      if w.toNat / 2 ^ 8 % 2 ^ 20 ≠ 0 then .rsvdBits else .instr (.byte (BitVec.ofNat 8 (w.toNat % 2 ^ 8)))) ∧
    (w.toNat / 2 ^ 28 = 0x3 → decode w =
      if w.toNat / 2 ^ 21 % 2 ^ 7 ≠ 0 then .rsvdBits else .instr (.char (BitVec.ofNat 21 (w.toNat % 2 ^ 21)))) ∧
    (w.toNat / 2 ^ 28 = 0x4 → decode w = if w.toNat % 2 ^ 28 ≠ 0 then .rsvdBits else .instr .close) ∧
    (w.toNat / 2 ^ 28 = 0x5 → decode w = if w.toNat % 2 ^ 28 ≠ 0 then .rsvdBits else .instr .clrErr) ∧
    (w.toNat / 2 ^ 28 = 0x0 ∨ 0x6 ≤ w.toNat / 2 ^ 28 → decode w = .illegalOp)

/-- 30_encoding.md Part 1: every command has exactly one word and every legal word exactly one command, with every
operand at every value of its field. -/
def Obligations.DecodeInvertsEncode : Prop :=
  ∀ (i : Instr) (w : Word), decode w = .instr i ↔ w = encode i

/-- 10_state.md R25, 40_framing.md R59: a step that finds a word the decoder reads as `i`, with no reset and a block
that accepts commands, is `exec` of `i`, the word taken from the channel and the inputs at their next levels. -/
def Obligations.StepRunsDecodedCommand : Prop :=
  ∀ (s : State) (w : Word) (rest : List Word) (i : Instr),
    s.pins.rst = false → s.pins.cmdEn = true → seqLegal s = true → causeLegal s = true → busy s = false →
    s.cmdq = w :: rest → decode w = .instr i →
      step s = exec i (tick { s with cmdq := rest })

/-- R25: `cmd_ready` is NOT `busy`; a word on the channel is accepted in a step where the block is ready, and that step
is AcceptCommand of it (log 1: the inputs take their next levels); else it stays on the channel; CMD has no readable
value. -/
def Obligations.CommandChannel : Prop :=
  ∀ s : State, cmdReady s = !busy s ∧ regRead 0 s = none ∧
    (s.pins.rst = false → seqLegal s = true → causeLegal s = true →
      (∀ w, offered s = some w → cmdReady s = true →
        step s = acceptCommand w (tick { s with cmdq := s.cmdq.tail }) ∧ ∃ t, step s = .next t ∧ t.cmdq = s.cmdq.tail) ∧
      ((offered s = none ∨ cmdReady s = false) → ∃ t, step s = .next t ∧ t.cmdq = s.cmdq))

/-- R60: OPEN, every value of `sel`. -/
def Obligations.OpenQueuesHeaderAndSelector : Prop :=
  ∀ (sel : Byte) (s : State), seqLegal s = true → causeLegal s = true →
    (encode (.openPacket sel)).toNat = 0x10000000 + sel.toNat ∧
    (s.err = false → s.seq = seqIdle → ∃ t, exec (.openPacket sel) s = .next t ∧
      t = { s with hold0 := sel, acc := BitVec.ofNat 16 (2 + sel.toNat), seq := seqHdr0 } ∧ t.acc.toNat ≤ 257 ∧
      pend t = [0x00#8, 0x00#8, 0x00#8, 0x00#8, 0x00#8, 0x01#8, 0x5A#8, 0x30#8, 0x30#8, 0x02#8, sel] ∧
      openF t = true ∧ busy t = true) ∧
    (s.err = false → s.seq = seqOpenw → exec (.openPacket sel) s = .next { s with err := true, cause := 4#4 }) ∧
    (busy s = true → s.pins.rst = false → WordWaits s)

/-- R61: BYTE, every value of `b`, not escaped. -/
def Obligations.ByteQueuesOneRawByte : Prop :=
  ∀ (b : Byte) (s : State), seqLegal s = true → causeLegal s = true →
    (encode (.byte b)).toNat = 0x20000000 + b.toNat ∧
    (s.err = false → s.seq = seqOpenw → ∃ t, exec (.byte b) s = .next t ∧
      t = { s with hold0 := b, acc := accAdd s.acc b, seq := seqP1 } ∧ pend t = [b] ∧
      openF t = true ∧ busy t = true) ∧
    (s.err = false → s.seq = seqIdle → exec (.byte b) s = .next { s with err := true, cause := 3#4 }) ∧
    (busy s = true → s.pins.rst = false → WordWaits s) ∧ accAdd 0xFF00#16 0xFF#8 = 0x0000#16

/-- R62: CLOSE; `acc` keeps the final checksum while the trailer leaves, and after EOT the block is in IDLE. -/
def Obligations.CloseQueuesTrailer : Prop :=
  (encode .close).toNat = 0x40000000 ∧
  (∀ s : State, seqLegal s = true → causeLegal s = true →
    (s.err = false → s.seq = seqOpenw → ∃ t, exec .close s = .next t ∧
      t = { s with acc := accAdd s.acc 0x03#8, seq := seqTetx } ∧ pend t = [0x03#8] ++ hex4 t.acc ++ [0x04#8] ∧
      openF t = false ∧ busy t = true) ∧
    (s.err = false → s.seq = seqIdle → exec .close s = .next { s with err := true, cause := 3#4 }) ∧
    (busy s = true → s.pins.rst = false → WordWaits s)) ∧
  (∀ s t : State, s.pins.rst = false → step s = .next t → busy s = true → t.acc = s.acc) ∧
  (∀ s t : State, s.pins.rst = false → s.pins.txReady = true → step s = .next t → s.seq = seqTeot →
    t.seq = seqIdle ∧ busy t = false) ∧
  (∀ (s t : State) (w : Word), acceptCommand w s = .next t → s.seq = seqIdle → t.acc ≠ s.acc →
    (∃ sel, w = encode (.openPacket sel)) ∨ w = encode .clrErr)

/-- R63: CLRERR, with an error or without, and its word with a reserved bit set. -/
def Obligations.ClrErrAbandonsPacket : Prop :=
  (encode .clrErr).toNat = 0x50000000 ∧
  ∀ s : State, seqLegal s = true → causeLegal s = true →
    (busy s = false → ∃ t, exec .clrErr s = .next t ∧
      t = { s with err := false, cause := 0#4, seq := seqIdle, acc := 0x0000#16 } ∧ openF t = false ∧ busy t = false ∧ pend t = []) ∧
    (busy s = true → s.pins.rst = false → WordWaits s) ∧
    (∀ w : Word, busy s = false → w.toNat / 2 ^ 28 = 5 → w.toNat % 2 ^ 28 ≠ 0 →
      acceptCommand w s = if s.err = true then .next s else .next { s with err := true, cause := 2#4 })

/-- R78: CHAR, every code point: an escape pair goes through hold0, hold1 and P2A, one byte through hold0 and P1. -/
def Obligations.CharQueuesEscapedBytes : Prop :=
  ∀ (cp : CodePoint) (s : State), seqLegal s = true → causeLegal s = true →
    (encode (.char cp)).toNat = 0x30000000 + cp.toNat ∧
    (s.err = false → s.seq = seqOpenw → ∃ t, exec (.char cp) s = .next t ∧ pend t = esc cp ∧
      openF t = true ∧ busy t = true ∧
      (∀ m c, esc cp = [m, c] →
        t = { s with hold0 := m, hold1 := c, acc := accAdd (accAdd s.acc m) c, seq := seqP2a }) ∧
      (∀ b, esc cp = [b] → t = { s with hold0 := b, acc := accAdd s.acc b, seq := seqP1 })) ∧
    ((esc cp).length = 1 ∨ (esc cp).length = 2) ∧
    (∀ m c, lutLookup cp = some (m, c) → esc cp = [m, c]) ∧
    (lutLookup cp = none → cp.toNat ≤ 0x7F → esc cp = [BitVec.ofNat 8 cp.toNat]) ∧
    (lutLookup cp = none → 0x7F < cp.toNat → esc cp = [0x5F#8]) ∧
    (s.err = false → s.seq = seqIdle → exec (.char cp) s = .next { s with err := true, cause := 3#4 }) ∧
    (busy s = true → s.pins.rst = false → WordWaits s) ∧
    (esc 0xE4#21 = [0x08#8, 0x24#8] ∧ esc 0xE9#21 = [0x5F#8] ∧
      accAdd (accAdd 0x007A#16 0x08#8) 0x24#8 = 0x00A6#16)

/-- 42_escape.md R86: below 0x80, where no code point is a key (R79), CHAR and BYTE have the same effect in every
state. -/
def Obligations.CharActsAsByteOnAscii : Prop :=
  ∀ (cp : CodePoint) (s : State), cp.toNat ≤ 0x7F → exec (.char cp) s = exec (.byte (BitVec.ofNat 8 cp.toNat)) s

/-- The model's own convention, log 10: `exec` of a command the block cannot accept, because bytes are pending, changes
nothing; `step` never asks for it. -/
def Obligations.BusyExecChangesNothing : Prop :=
  ∀ (i : Instr) (s : State), seqLegal s = true → causeLegal s = true → busy s = true → exec i s = .next s

/-! ### Frames -/

/-- The frame of OPEN and BYTE: they write hold0, acc and seq, or take the error entry; hold1, the log, the channel and
the inputs stay. -/
def Obligations.FrameOfOpenAndByte : Prop :=
  ∀ (i : Instr) (b : Byte) (s t : State), i = .openPacket b ∨ i = .byte b → exec i s = .next t →
    t.hold1 = s.hold1 ∧ SameOutside s t ∧
    ((t.err = s.err ∧ t.cause = s.cause) ∨ (s.err = false ∧ t = { s with err := true, cause := t.cause }))

/-- The frame of CHAR: as BYTE's, but an escape pair writes hold1 too. -/
def Obligations.FrameOfChar : Prop :=
  ∀ (cp : CodePoint) (s t : State), exec (.char cp) s = .next t →
    SameOutside s t ∧ ((esc cp).length = 1 → t.hold1 = s.hold1) ∧
    ((t.err = s.err ∧ t.cause = s.cause) ∨ (s.err = false ∧ t = { s with err := true, cause := t.cause }))

/-- The frame of CLOSE: it writes acc and seq, or takes the error entry. -/
def Obligations.FrameOfClose : Prop :=
  ∀ s t : State, exec .close s = .next t →
    t.hold0 = s.hold0 ∧ t.hold1 = s.hold1 ∧ SameOutside s t ∧
    ((t.err = s.err ∧ t.cause = s.cause) ∨ (s.err = false ∧ t = { s with err := true, cause := t.cause }))

/-- The frame of CLRERR: it writes err, cause, seq and acc; the holding registers, the log, the channel and the inputs
stay. -/
def Obligations.FrameOfClrErr : Prop :=
  ∀ s t : State, exec .clrErr s = .next t → t.hold0 = s.hold0 ∧ t.hold1 = s.hold1 ∧ SameOutside s t

/-! ### Errors -/

/-- R104: which word raises which cause, for a word accepted while `err` = 0; the entry is R105's. -/
def Obligations.RejectionCauses : Prop :=
  ∀ (w : Word) (s : State), seqLegal s = true → causeLegal s = true → busy s = false → s.err = false →
    ((w.toNat / 2 ^ 28 = 0 ∨ 6 ≤ w.toNat / 2 ^ 28) → acceptCommand w s = .next { s with err := true, cause := 1#4 }) ∧
    ((((w.toNat / 2 ^ 28 = 1 ∨ w.toNat / 2 ^ 28 = 2) ∧ w.toNat / 2 ^ 8 % 2 ^ 20 ≠ 0) ∨
      (w.toNat / 2 ^ 28 = 3 ∧ w.toNat / 2 ^ 21 % 2 ^ 7 ≠ 0) ∨
      ((w.toNat / 2 ^ 28 = 4 ∨ w.toNat / 2 ^ 28 = 5) ∧ w.toNat % 2 ^ 28 ≠ 0)) →
        acceptCommand w s = .next { s with err := true, cause := 2#4 }) ∧
    (s.seq = seqIdle → ((∃ b, w = encode (.byte b)) ∨ (∃ cp, w = encode (.char cp)) ∨ w = encode .close) →
        acceptCommand w s = .next { s with err := true, cause := 3#4 }) ∧
    (s.seq = seqOpenw → (∃ sel, w = encode (.openPacket sel)) →
        acceptCommand w s = .next { s with err := true, cause := 4#4 }) ∧
    (w = encode .clrErr → ∃ t, acceptCommand w s = .next t ∧ t.err = false ∧ t.cause = 0#4)

/-- R107: while `err` = 1 every accepted word but a well-formed CLRERR changes nothing; CLRERR abandons the packet. -/
def Obligations.DiscardWhileError : Prop :=
  ∀ (w : Word) (s : State), seqLegal s = true → causeLegal s = true → busy s = false → s.err = true →
    (w ≠ 0x50000000#32 → acceptCommand w s = .next s) ∧
    (w = 0x50000000#32 → ∃ t, acceptCommand w s = .next t ∧ t.err = false ∧ openF t = false ∧ pend t = [])

/-- R108: a word that leaves `err` = 1, rejected or discarded, has changed nothing but `err` and `cause`, and nothing
was pending when it was accepted. -/
def Obligations.ErrorsArePrecise : Prop :=
  ∀ (w : Word) (s t : State), busy s = false → acceptCommand w s = .next t → t.err = true →
    t.seq = s.seq ∧ t.acc = s.acc ∧ t.hold0 = s.hold0 ∧ t.hold1 = s.hold1 ∧ t.txlog = s.txlog ∧ pend s = []

/-- R16: in an unused encoding of `seq` no command is accepted and no byte is emitted, by a fault; no run from reset
reaches one. -/
def Obligations.UnusedSeqFaults : Prop :=
  (∀ s : State, 0x16 ≤ s.seq.toNat →
    (s.pins.rst = false → step s = .fault .unusedSeq) ∧ (∀ i, exec i s = .fault .unusedSeq) ∧
    (∀ w, acceptCommand w s = .fault .unusedSeq)) ∧
  (∀ (n : Nat) (s t : State), JustReset s → run n s = .next t → t.seq.toNat ≤ 0x15)

/-- 93_implementation_defined.md U11: a model that holds a reserved cause code faults. That every step without reset and
every `exec` stops, and that reset leaves such a state, is the model's reading (DEDUCED, log 9). -/
def Obligations.ReservedCauseFaults : Prop :=
  ∀ s : State, s.seq.toNat ≤ 0x15 → 5 ≤ s.cause.toNat →
    (s.pins.rst = false → step s = .fault .reservedCause) ∧ (∀ i, exec i s = .fault .reservedCause) ∧
    (s.pins.rst = true → ∃ t, step s = .next t ∧ t.cause = 0#4)

/-! ### Output -/

/-- R22: the pending bytes case by case (of the header states one clause for all ten, of the digit states one for all
four), and what `busy` and PEND_MAX have to do with them. -/
def Obligations.PendingBytes : Prop :=
  (∀ s : State,
    (s.seq = 0x00#5 ∨ s.seq = 0x0C#5 → pend s = []) ∧
    (∀ k : Nat, k ≤ 9 → s.seq = BitVec.ofNat 5 (k + 1) → pend s =
      [0x00#8, 0x00#8, 0x00#8, 0x00#8, 0x00#8, 0x01#8, 0x5A#8, 0x30#8, 0x30#8, 0x02#8].drop k ++ [s.hold0]) ∧
    (s.seq = 0x0B#5 ∨ s.seq = 0x0D#5 → pend s = [s.hold0]) ∧
    (s.seq = 0x0E#5 → pend s = [s.hold0, s.hold1]) ∧ (s.seq = 0x0F#5 → pend s = [s.hold1]) ∧
    (s.seq = 0x10#5 → pend s = [0x03#8] ++ hex4 s.acc ++ [0x04#8]) ∧
    (∀ j : Nat, j ≤ 3 → s.seq = BitVec.ofNat 5 (0x14 - j) → pend s = (hex4 s.acc).drop (3 - j) ++ [0x04#8]) ∧
    (s.seq = 0x15#5 → pend s = [0x04#8])) ∧
  (∀ s : State, s.seq.toNat ≤ 0x15 →
    (busy s = true ↔ pend s ≠ []) ∧ (pend s).length ≤ 11 ∧ ((pend s).length = 11 ↔ s.seq = 0x01#5))

/-- 10_state.md R26: `tx_valid` is `busy`, `tx_data` is the first pending byte while valid and 0x00 while not (R26's value,
which 93 U13 calls any; log 16), and a byte is transferred exactly in a step where `tx_valid` and `tx_ready` are 1. -/
def Obligations.OutputChannel : Prop :=
  ∀ s : State, seqLegal s = true →
    txValid s = busy s ∧ (txValid s = true → (pend s).head? = some (txData s)) ∧ (txValid s = false → txData s = 0x00#8) ∧
    ∀ t, s.pins.rst = false → step s = .next t →
      t.txlog = if txValid s = true ∧ s.pins.txReady = true then s.txlog ++ [txData s] else s.txlog

/-- R64, R65, R66: what each of the 20 busy states emits and the state that follows; nothing else of the block changes. -/
def Obligations.EmissionTable : Prop :=
  ∀ s : State, s.pins.rst = false → causeLegal s = true → s.pins.txReady = true →
    (∀ k : Nat, ∀ b : Byte, [0x00#8, 0x00#8, 0x00#8, 0x00#8, 0x00#8, 0x01#8, 0x5A#8, 0x30#8, 0x30#8, 0x02#8][k]? = some b →
      s.seq = BitVec.ofNat 5 (k + 1) → Emits s b (BitVec.ofNat 5 (k + 2))) ∧
    (s.seq = 0x0B#5 → Emits s s.hold0 0x0C#5) ∧
    (s.seq = 0x0D#5 → Emits s s.hold0 0x0C#5) ∧
    (s.seq = 0x0E#5 → Emits s s.hold0 0x0F#5) ∧
    (s.seq = 0x0F#5 → Emits s s.hold1 0x0C#5) ∧
    (s.seq = 0x10#5 → Emits s 0x03#8 0x11#5) ∧
    (s.seq = 0x11#5 → Emits s (hexDigit (s.acc.extractLsb' 12 4)) 0x12#5) ∧
    (s.seq = 0x12#5 → Emits s (hexDigit (s.acc.extractLsb' 8 4)) 0x13#5) ∧
    (s.seq = 0x13#5 → Emits s (hexDigit (s.acc.extractLsb' 4 4)) 0x14#5) ∧
    (s.seq = 0x14#5 → Emits s (hexDigit (s.acc.extractLsb' 0 4)) 0x15#5) ∧
    (s.seq = 0x15#5 → Emits s 0x04#8 0x00#5)

/-- 20_memory.md R41: while bytes are pending a step keeps the log followed by what is pending, accepts no word and
touches no other register; a word is accepted only with nothing pending, and its acceptance transfers nothing. -/
def Obligations.StreamIsOrdered : Prop :=
  (∀ s t : State, s.pins.rst = false → busy s = true → step s = .next t →
    t.txlog ++ pend t = s.txlog ++ pend s ∧ t.cmdq = s.cmdq ∧ t.acc = s.acc ∧ t.hold0 = s.hold0 ∧ t.hold1 = s.hold1 ∧
    t.err = s.err ∧ t.cause = s.cause) ∧
  (∀ s t : State, step s = .next t → t.cmdq ≠ s.cmdq → pend s = [] ∧ t.txlog = s.txlog ∧ t.cmdq = s.cmdq.tail)

/-- 60_exceptions.md R118: while the transport asserts `tx_ready` in no step and no reset comes, whatever the host's levels,
any number of steps leaves the block as it is and busy, the host's word waiting; reset is the escape. -/
def Obligations.StalledTransportHangs : Prop :=
  ∀ (s : State) (n : Nat), seqLegal s = true → causeLegal s = true → busy s = true →
    (s.pins.txReady = false → s.pins.rst = false → (∀ p ∈ s.script, p.txReady = false ∧ p.rst = false) →
      ∃ t, run n s = .next t ∧ SameButTiming s t ∧ cmdReady t = false) ∧
    (s.pins.rst = true → ∃ t, step s = .next t ∧ cmdReady t = true)

/-- R115: while nothing is pending and no command is offered (withheld by the host, or none left) a step holds the
state of the block; with none left, any number of steps does. -/
def Obligations.IdleHoldsState : Prop :=
  (∀ s : State, seqLegal s = true → causeLegal s = true → busy s = false → offered s = none → s.pins.rst = false →
    ∃ t, step s = .next t ∧ SameButTiming s t) ∧
  (∀ (n : Nat) (s : State), seqLegal s = true → causeLegal s = true → busy s = false → s.cmdq = [] → NoReset s →
    ∃ t, run n s = .next t ∧ SameButTiming s t)

/-- R23: the layout of STATUS, field by field as a number, for every state; register 1, and 0x0000 at reset. -/
def Obligations.StatusLayout : Prop :=
  (∀ s : State, regRead 1 s = some (statusReg s) ∧
    (statusReg s).toNat = (openF s).toNat + 2 * (busy s).toNat + 4 * s.err.toNat + 16 * s.cause.toNat +
      256 * s.seq.toNat ∧
    (openF s = true ↔ 0x01 ≤ s.seq.toNat ∧ s.seq.toNat ≤ 0x0F) ∧ (busy s = true ↔ s.seq ≠ 0x00#5 ∧ s.seq ≠ 0x0C#5)) ∧
  statusReg State.reset = 0x0000#16

/-- R24: ACC, register 2, shows `acc`; 0x0000..0xFFFE in every state a run from reset reaches. -/
def Obligations.AccRegister : Prop :=
  (∀ s : State, regRead 2 s = some s.acc) ∧ regRead 2 State.reset = some 0x0000#16 ∧
  (∀ (n : Nat) (s t : State), JustReset s → run n s = .next t → (accReg t).toNat ≤ 0xFFFE)

/-! ### Checksum -/

/-- R70: one conditional subtraction is the sum modulo 65535, again in 0..65534. -/
def Obligations.AccAddIsModularSum : Prop :=
  ∀ (a : Sum16) (b : Byte), a.toNat ≤ 65534 →
    (accAdd a b).toNat = (a.toNat + b.toNat) % 65535 ∧ (accAdd a b).toNat ≤ 65534 ∧
    (65535 ≤ a.toNat + b.toNat → (accAdd a b).toNat = a.toNat + b.toNat - 65535) ∧
    (a.toNat + b.toNat < 65535 → (accAdd a b).toNat = a.toNat + b.toNat)

/-- R71: accumulating the body's bytes in any order, then ETX, from STX + sel, gives the checksum. -/
def Obligations.AccumulationIsChecksum : Prop :=
  ∀ (sel : Byte) (body order : List Byte), order.Perm body →
    accAdd (order.foldl accAdd (BitVec.ofNat 16 (2 + sel.toNat))) 0x03#8 = cksum (sel :: body)

/-- R72: the checksum takes every value in 0..65534 and no other; its digits are never "FFFF". -/
def Obligations.ChecksumRange : Prop :=
  (∀ s : List Byte, (cksum s).toNat ≤ 65534 ∧ hex4 (cksum s) ≠ [0x46#8, 0x46#8, 0x46#8, 0x46#8]) ∧
  (∀ v : Nat, v ≤ 65534 → ∃ s : List Byte, (cksum s).toNat = v)

/-- 41_checksum.md R69, R73: the exact sum reduced modulo 65535. It differs from a 16-bit wraparound for every sum from
65535 up to 65535 * 65536 - 1; at 65535 * 65536 both give 0, so R73's "for every S" does not hold (log 17). -/
def Obligations.ChecksumIsNotWraparound : Prop :=
  ∀ (s : List Byte) (total : Nat), total = 2 + (s.map BitVec.toNat).sum + 3 →
    (cksum s).toNat = total % 65535 ∧ (total < 65535 → (cksum s).toNat = total) ∧
    (65535 ≤ total → total < 65535 * 65536 → (cksum s).toNat ≠ total % 65536) ∧
    (total = 65535 * 65536 → (cksum s).toNat = 0 ∧ total % 65536 = 0)

/-- R74, R75: four uppercase digits, zero-padded, most significant first, which read back as the value. -/
def Obligations.HexRendering : Prop :=
  (∀ v : Sum16, hex4 v = [v.toNat / 4096, v.toNat / 256 % 16, v.toNat / 16 % 16, v.toNat % 16].map
    (fun n => if n < 10 then BitVec.ofNat 8 (0x30 + n) else BitVec.ofNat 8 (0x41 + (n - 10)))) ∧
  (∀ v : Sum16, parseHex 0 (hex4 v) = some v.toNat ∧ (hex4 v).length = 4) ∧
  (∀ n : BitVec 4, (0x30 ≤ (hexDigit n).toNat ∧ (hexDigit n).toNat ≤ 0x39) ∨
    (0x41 ≤ (hexDigit n).toNat ∧ (hexDigit n).toNat ≤ 0x46))

/-! ### The escape unit -/

/-- R81, R83, R84: a key's pair unfiltered; the ASCII range, control bytes among it, unchanged; anything else above 0x7F
one placeholder, surrogates and values above 0x10FFFF among it. -/
def Obligations.EscapeOfEveryCodePoint : Prop :=
  (∀ (cp : CodePoint) (m c : Byte), lutLookup cp = some (m, c) → esc cp = [m, c]) ∧
  (∀ cp : CodePoint, lutLookup cp = none → cp.toNat ≤ 0x7F → esc cp = [BitVec.ofNat 8 cp.toNat]) ∧
  (∀ cp : CodePoint, lutLookup cp = none → 0x7F < cp.toNat → esc cp = [0x5F#8]) ∧
  (∀ cp : CodePoint, cp.toNat ≤ 0x7F → esc cp = [BitVec.ofNat 8 cp.toNat]) ∧
  (∀ cp : CodePoint, (0xD800 ≤ cp.toNat ∧ cp.toNat ≤ 0xDFFF) ∨ 0x110000 ≤ cp.toNat → esc cp = [0x5F#8])

/-- 42_escape.md R79: what every EXT_MAP the model admits satisfies; ordinals, letters without an accent and the Kelvin
sign are no keys. Which code points are accented Latin letters is the model's choice from Unicode (log 7). -/
def Obligations.EscapeMapConstraints : Prop :=
  lutLookup 0xE4#21 = some (0x08#8, 0x24#8) ∧ lutLookup 0xE9#21 = none ∧
  (∀ cp : CodePoint, lutLookup cp ≠ none → mayBeKey cp = true ∧ 0x9F < cp.toNat ∧ cp.toNat ≤ 0x10FFFF ∧
    ¬ (0xD800 ≤ cp.toNat ∧ cp.toNat ≤ 0xDFFF) ∧ ¬ (0x300 ≤ cp.toNat ∧ cp.toNat ≤ 0x36F) ∧
    cp.toNat ≠ 0xD7 ∧ cp.toNat ≠ 0xF7 ∧ ¬ (0x1F000 ≤ cp.toNat ∧ cp.toNat ≤ 0x1FAFF)) ∧
  (∀ cp ∈ [0xAA#21, 0xBA#21, 0xC6#21, 0xD0#21, 0xDE#21, 0xDF#21, 0xE6#21, 0xF0#21, 0xFE#21, 0x131#21, 0x152#21, 0x250#21,
    0x1D00#21, 0x212A#21], lutLookup cp = none ∧ esc cp = [0x5F#8])

/-- R85: a text is escaped code point by code point, is what TEXT puts into the body, and its length counts each key
twice; a decomposed 'a' with diaeresis is two code points. -/
def Obligations.EscapeTextPerCodePoint : Prop :=
  (∀ t : List CodePoint, (escapeText t).length = t.length + t.countP (fun cp => (lutLookup cp).isSome) ∧
    bodyBytes (textSeq t) = escapeText t) ∧
  (∀ t u : List CodePoint, escapeText (t ++ u) = escapeText t ++ escapeText u) ∧
  escapeText [0x61#21, 0x308#21] = [0x61#8, 0x5F#8]

/-! ### Packets -/

/-- R56: the bytes of a packet, and its length. -/
def Obligations.PacketStructure : Prop :=
  ∀ (sel : Byte) (body : List Byte),
    packet sel body = [0x00#8, 0x00#8, 0x00#8, 0x00#8, 0x00#8, 0x01#8, 0x5A#8, 0x30#8, 0x30#8, 0x02#8] ++ [sel] ++ body ++
      [0x03#8] ++ hex4 (cksum ([sel] ++ body)) ++ [0x04#8] ∧
    (packet sel body).length = 17 + body.length

/-- 95_test_vectors.md W8, 41_checksum.md R76: the four digits before EOT read back as the checksum of exactly the bytes
from the header's STX to ETX. -/
def Obligations.PacketChecksumReadsBack : Prop :=
  ∀ (sel : Byte) (body : List Byte),
    parseHex 0 (((packet sel body).drop (12 + body.length)).take 4) =
      some (((((packet sel body).drop 9).take (body.length + 3)).map BitVec.toNat).sum % 65535)

/-- R67: whatever the timing of host and transport, without reset, when a framed packet's words have been accepted and
nothing is pending, the log has grown by exactly the packet. -/
def Obligations.FramedRunPutsPacketOnWire : Prop :=
  ∀ (s t : State) (n : Nat) (sel : Byte) (cmds : List Instr) (rest : List Word),
    StateInv s → s.seq = seqIdle → s.err = false → NoReset s → (∀ c ∈ cmds, isPayload c = true) →
    s.cmdq = ([Instr.openPacket sel] ++ cmds ++ [Instr.close]).map encode ++ rest →
    run n s = .next t → t.cmdq = rest → busy t = false →
      t.txlog = s.txlog ++ packet sel (bodyBytes cmds) ∧ t.seq = seqIdle ∧ t.err = false ∧
      t.acc = cksum ([sel] ++ bodyBytes cmds) ∧
      parseHex 0 (((t.txlog.drop (s.txlog.length + 12 + (bodyBytes cmds).length))).take 4) = some t.acc.toNat

/-- 70_reset_and_hazards.md R127: with a transport that takes every byte at once the packet is complete after one step
for each command and 17 + n transfers. -/
def Obligations.FramedRunCompletes : Prop :=
  ∀ (s : State) (sel : Byte) (cmds : List Instr) (rest : List Word),
    StateInv s → s.seq = seqIdle → s.err = false → Prompt s → (∀ c ∈ cmds, isPayload c = true) →
    s.cmdq = ([Instr.openPacket sel] ++ cmds ++ [Instr.close]).map encode ++ rest →
      ∃ t, run (cmds.length + 2 + (17 + (bodyBytes cmds).length)) s = .next t ∧
        t.txlog = s.txlog ++ packet sel (bodyBytes cmds) ∧ t.seq = seqIdle ∧ t.err = false ∧ t.cmdq = rest ∧
        t.acc = cksum ([sel] ++ bodyBytes cmds)

/-- 20_memory.md R41, 70_reset_and_hazards.md R127: two runs without reset that differ in timing only and have accepted
equally many words have sent and queued the same bytes, with the same checksum and error. -/
def Obligations.TimingDoesNotChangeBytes : Prop :=
  ∀ (s₁ s₂ t₁ t₂ : State) (n₁ n₂ : Nat),
    SameButTiming s₁ s₂ → NoReset s₁ → NoReset s₂ → run n₁ s₁ = .next t₁ → run n₂ s₂ = .next t₂ →
    t₁.cmdq.length = t₂.cmdq.length →
      t₁.txlog ++ pend t₁ = t₂.txlog ++ pend t₂ ∧ t₁.acc = t₂.acc ∧ t₁.err = t₂.err ∧ t₁.cause = t₂.cause ∧
      (busy t₁ = busy t₂ → busy t₁ = false → t₁.seq = t₂.seq ∧ t₁.txlog = t₂.txlog)

/-! ### Invariants -/

/-- R28 holds at reset. -/
def Obligations.ResetMeetsInvariants : Prop := StateInv State.reset

/-- 10_state.md R28: every step from every state that meets the invariants meets them again. -/
def Obligations.StepKeepsInvariants : Prop := ∀ s t : State, StateInv s → step s = .next t → StateInv t

/-- R28: in every state reachable from reset, whatever host, transport and reset do, all four invariants hold, and the
run has not stopped. -/
def Obligations.ReachableStatesMeetInvariants : Prop :=
  ∀ (n : Nat) (s : State), JustReset s → ∃ t, run n s = .next t ∧
    t.seq.toNat ≤ 0x15 ∧ t.acc.toNat ≤ 65534 ∧ (t.err = false → t.cause = 0#4) ∧
    (t.err = true → 1 ≤ t.cause.toNat ∧ t.cause.toNat ≤ 4) ∧ (t.err = true → busy t = false)

/-- 70_reset_and_hazards.md R120, 10_state.md R27: no step, a reset among them, takes a byte from the log, and a step
adds at most one. -/
def Obligations.LogOnlyGrows : Prop :=
  ∀ s t : State, step s = .next t → ∃ l : List Byte, l.length ≤ 1 ∧ t.txlog = s.txlog ++ l

/-! ### The host's side -/

/-- R87: every operation that has an expansion expands to one packet: OPEN, a body of BYTE and CHAR commands, CLOSE; when
the framer, starting in IDLE with `err` = 0, has drained it, the log has grown by that packet. -/
def Obligations.HostOperationIsOnePacket : Prop :=
  ∀ (op : HostOp) (is : List Instr), expandOp op = some is →
    is = [.openPacket (opSelector op)] ++ opBody op ++ [.close] ∧ (∀ c ∈ opBody op, isPayload c = true) ∧
    ∀ (s : State) (rest : List Word), StateInv s → s.seq = seqIdle → s.err = false → Prompt s → s.cmdq = is.map encode ++ rest →
      ∃ n t, run n s = .next t ∧ t.cmdq = rest ∧ busy t = false ∧
        t.txlog = s.txlog ++ packet (opSelector op) (bodyBytes (opBody op))

/-- R88, R90: write_text and write_string send the label unescaped and the text escaped; a label above 0x7F has no
expansion. -/
def Obligations.TextOperations : Prop :=
  ∀ (label : CodePoint) (mode : String) (text : List CodePoint),
    (label.toNat ≤ 0x7F →
      expandOp (.writeText label mode text) = some ([.openPacket 0x41#8] ++ [.byte (BitVec.ofNat 8 label.toNat),
        .byte 0x1B#8, .byte 0x20#8] ++ (modeBytes (modeCode mode)).map .byte ++ text.map .char ++ [.close]) ∧
      bodyBytes (opBody (.writeText label mode text)) =
        [BitVec.ofNat 8 label.toNat, 0x1B#8, 0x20#8] ++ modeBytes (modeCode mode) ++ escapeText text ∧
      expandOp (.writeString label text) = some ([.openPacket 0x47#8] ++ [.byte (BitVec.ofNat 8 label.toNat)] ++
        text.map .char ++ [.close]) ∧
      bodyBytes (opBody (.writeString label text)) = [BitVec.ofNat 8 label.toNat] ++ escapeText text) ∧
    (0x7F < label.toNat → expandOp (.writeText label mode text) = none ∧ expandOp (.writeString label text) = none)

/-- 43_command_builder.md R89: a mode code has one or two bytes, and a name outside the table gives the packet of
'rotate'. -/
def Obligations.UnknownModeActsAsRotate : Prop :=
  (∀ m : String, (modeBytes (modeCode m)).length = 1 ∨ (modeBytes (modeCode m)).length = 2) ∧
  modeKnown "rotate" = true ∧
  (∀ (m : String) (label : CodePoint) (text : List CodePoint), modeKnown m = false →
    expandOp (.writeText label m text) = expandOp (.writeText label "rotate" text))

/-- 43_command_builder.md R92 to R96: the formatted arguments, digit by digit. The number the hour digits show is free
below 24 (log 20), a day's number is free (log 21), and the Boolean ones are the spec's reading (log 23). -/
def Obligations.SpecialArguments : Prop :=
  (∀ t : TimeOfDay, ∃ h : Nat, h < 24 ∧ argTime t =
    [h / 10, h % 10, t.minute.val / 10, t.minute.val % 10].map (fun n => BitVec.ofNat 8 (0x30 + n))) ∧
  (∀ d : Weekday, ∃ n : Nat, n ≤ 6 ∧ argWeekday d = [BitVec.ofNat 8 (0x30 + n)]) ∧
  (∀ d : Date, d.month < 100 → d.day < 100 → argDate d =
    [d.month / 10, d.month % 10, d.day / 10, d.day % 10, d.year % 100 / 10, d.year % 100 % 10].map
      (fun n => BitVec.ofNat 8 (0x30 + n))) ∧
  argTimeFmt true = [0x53#8] ∧ argTimeFmt false = [0x4D#8] ∧
  argSound true = [0x46#8, 0x46#8] ∧ argSound false = [0x30#8, 0x30#8]

/-- 43_command_builder.md R91, R97, R98, R99: the selector and the body bytes of the write_special and read_special
operations, whatever the open sub-command bytes and soft_reset's argument are (free constants, log 18). -/
def Obligations.SpecialOperationBodies : Prop :=
  (∀ op ∈ [HostOp.softReset, .setMemoryMap], opSelector op = 0x45#8) ∧
  (∀ (t : TimeOfDay) (d : Weekday) (x : Date) (b : Bool),
    ∀ r ∈ [(HostOp.setTime t, SubCmd.time, argTime t), (.setWeekday d, .weekday, argWeekday d), (.setDate x, .date, argDate x),
      (.setTimeFormat b, .timeFmt, argTimeFmt b), (.sound b, .sound, argSound b), (.softReset, .reset, Config.argReset)],
      opSelector r.1 = 0x45#8 ∧ bodyBytes (opBody r.1) = Config.subcmd r.2.1 :: r.2.2) ∧
  (∀ r ∈ [(HostOp.readErrorRegister, SubCmd.readErr), (.readMemorySize, .memSize)],
    opSelector r.1 = 0x46#8 ∧ bodyBytes (opBody r.1) = [Config.subcmd r.2])

/-- 43_command_builder.md R98: whatever the open order, five text slots A..E and ten string slots "1".."10", each once; every
descriptor ends in its kind's fixed suffix (a suffix per kind is the model's choice, log 24); the body is the fifteen
descriptors after the sub-command byte. -/
def Obligations.MemoryMapSlots : Prop :=
  memorySlots.length = 15 ∧
  ((memorySlots.filter (fun d => decide (d.kind = .text))).map Slot.label).Perm
    [[0x41#8], [0x42#8], [0x43#8], [0x44#8], [0x45#8]] ∧
  ((memorySlots.filter (fun d => decide (d.kind = .string))).map Slot.label).Perm
    [[0x31#8], [0x32#8], [0x33#8], [0x34#8], [0x35#8], [0x36#8], [0x37#8], [0x38#8], [0x39#8], [0x31#8, 0x30#8]] ∧
  (∀ d ∈ memorySlots, (d.kind = .text → d.capacity = 256 ∧ d.runAlways = true) ∧ (d.kind = .string → d.capacity = 125)) ∧
  (∀ d : Slot, Config.memmapSuffix d.kind <:+ memmapDescriptor d) ∧
  bodyBytes (opBody .setMemoryMap) = Config.subcmd .memMap :: memorySlots.flatMap memmapDescriptor

/-- 30_encoding.md R57, R58: FRAME is OPEN, one BYTE for each byte of the body, CLOSE; and it is the source's encode: run
from IDLE with `err` = 0, what it adds to the log is Packet(sel, body). -/
def Obligations.FrameIsEncode : Prop :=
  ∀ (sel : Byte) (body : List Byte), frameSeq sel body = [.openPacket sel] ++ body.map .byte ++ [.close] ∧
    bodyBytes (frameSeq sel body) = body ∧ (∀ c ∈ bytesSeq body, isPayload c = true) ∧
    ∀ (s : State) (rest : List Word), StateInv s → s.seq = seqIdle → s.err = false → Prompt s →
      s.cmdq = (frameSeq sel body).map encode ++ rest →
      ∃ n t, run n s = .next t ∧ t.cmdq = rest ∧ busy t = false ∧ t.txlog = s.txlog ++ packet sel body

/-- 30_encoding.md R52: in every letter case, an operand in its field's range, a number or a character literal, gives the
one word that carries it, and one outside emits no word. That a literal above 0x7F in OPEN and BYTE is outside is the
model's choice (log 26). -/
def Obligations.AssemblerRefusesOutOfRange : Prop :=
  ∀ (cs : List Char) (n : Nat) (c : Char),
    (∀ row ∈ [(['O', 'P', 'E', 'N'], 0x10000000), (['B', 'Y', 'T', 'E'], 0x20000000)], cs.map Char.toUpper = row.1 →
      (n ≤ 0xFF → ∃ w : Word, assembleWords cs [.num n] = some [w] ∧ w.toNat = row.2 + n) ∧
      (0xFF < n → assembleWords cs [.num n] = none) ∧
      (c.toNat ≤ 0x7F → ∃ w : Word, assembleWords cs [.chr c] = some [w] ∧ w.toNat = row.2 + c.toNat) ∧
      (0x7F < c.toNat → assembleWords cs [.chr c] = none)) ∧
    (cs.map Char.toUpper = ['C', 'H', 'A', 'R'] →
      (n ≤ 0x1FFFFF → ∃ w : Word, assembleWords cs [.num n] = some [w] ∧ w.toNat = 0x30000000 + n) ∧
      (0x1FFFFF < n → assembleWords cs [.num n] = none) ∧
      (∃ w : Word, assembleWords cs [.chr c] = some [w] ∧ w.toNat = 0x30000000 + c.toNat)) ∧
    (cs.map Char.toUpper = ['C', 'L', 'O', 'S', 'E'] → assembleWords cs [] = some [0x40000000#32]) ∧
    (cs.map Char.toUpper = ['C', 'L', 'R', 'E', 'R', 'R'] → assembleWords cs [] = some [0x50000000#32])
end

