-- ==== Sys2Proof/Laws/Builder.lean ====
section
/-! SUPPORT. The order of the memory map's descriptors: whatever it is, the slots are those of the default order, each once
(43_command_builder.md R98). -/

namespace Sys2Proof.Machine

theorem memorySlots_perm : memorySlots.Perm defaultSlots := by
  have h : memorySlots = ((List.finRange 15).map Config.slotOrder).map defaultSlots.get :=
    (List.map_map (f := Config.slotOrder) (g := defaultSlots.get)).symm
  rw [h]
  exact ((Equiv.Perm.map_finRange_perm Config.slotOrder).map _).trans (.of_eq (by decide))

theorem mem_memorySlots {d : Slot} : d ∈ memorySlots ↔ d ∈ defaultSlots := memorySlots_perm.mem_iff

end Sys2Proof.Machine
end

