-- ==== Sys2Proof/Laws/Decode.lean ====
section
/-! SUPPORT. Words as numbers: the fields the decoder cuts out and the word the encoder builds, in the arithmetic of
natural numbers, where omega decides. -/

namespace Sys2Proof

theorem opField_toNat (w : Word) : (opField w).toNat = w.toNat / 2 ^ 28 := by
  have := w.isLt
  simp only [opField, BitVec.extractLsb'_toNat, Nat.shiftRight_eq_div_pow]
  omega

theorem extract_toNat (w : Word) (lo n : Nat) : (w.extractLsb' lo n).toNat = w.toNat / 2 ^ lo % 2 ^ n := by
  rw [BitVec.extractLsb'_toNat, Nat.shiftRight_eq_div_pow]

theorem extract_eq_ofNat (w : Word) (n : Nat) : w.extractLsb' 0 n = BitVec.ofNat n (w.toNat % 2 ^ n) := by
  apply BitVec.eq_of_toNat_eq
  simp

theorem extract_eq_zero_iff (w : Word) (lo n : Nat) :
    (w.extractLsb' lo n == 0#n) = decide (w.toNat / 2 ^ lo % 2 ^ n = 0) := by
  rw [Bool.eq_iff_iff, beq_iff_eq, decide_eq_true_iff, ← extract_toNat, ← BitVec.toNat_inj, BitVec.toNat_ofNat,
    Nat.zero_mod]

theorem wordOf_toNat (op : BitVec 4) (low : BitVec 28) : (wordOf op low).toNat = op.toNat * 2 ^ 28 + low.toNat := by
  have := low.isLt
  rw [wordOf, BitVec.toNat_append, ← Nat.shiftLeft_add_eq_or_of_lt low.isLt, Nat.shiftLeft_eq]

@[simp] theorem opField_wordOf (op : BitVec 4) (low : BitVec 28) : opField (wordOf op low) = op := by
  apply BitVec.eq_of_toNat_eq
  have := low.isLt
  rw [opField_toNat, wordOf_toNat]
  omega

end Sys2Proof
end

