-- ==== Sys2Proof/Laws/Operands.lean ====
section
/-! SUPPORT. What may be a key of EXT_MAP, and what CHAR makes of the code points that are none (42_escape.md R79, R81). -/

namespace Sys2Proof.Machine

theorem mayBeKey_iff (cp : CodePoint) :
    mayBeKey cp = true ↔ ∃ r ∈ accentedLatin, r.1 ≤ cp.toNat ∧ cp.toNat ≤ r.2 := by
  simp [mayBeKey, List.any_eq_true]

theorem accentedLatin_bounds :
    ∀ r ∈ accentedLatin, (0xC0 ≤ r.1 ∧ r.2 ≤ 0x268) ∨ (0x1D13 ≤ r.1 ∧ r.2 ≤ 0xAB44) := by decide

theorem mayBeKey_bounds {cp : CodePoint} (h : mayBeKey cp = true) :
    (0xC0 ≤ cp.toNat ∧ cp.toNat ≤ 0x268) ∨ (0x1D13 ≤ cp.toNat ∧ cp.toNat ≤ 0xAB44) := by
  obtain ⟨r, hr, h1, h2⟩ := (mayBeKey_iff cp).mp h
  have := accentedLatin_bounds r hr
  omega

theorem mayBeKey_of_key {cp : CodePoint} (h : lutLookup cp ≠ none) : mayBeKey cp = true := by
  unfold lutLookup at h
  split at h
  · next e => subst e; decide
  · split at h
    · exact absurd rfl h
    · split at h
      · assumption
      · exact absurd rfl h

theorem lutLookup_of_not_mayBeKey {cp : CodePoint} (h : mayBeKey cp = false) : lutLookup cp = none :=
  Decidable.byContradiction fun hn => by simp [mayBeKey_of_key hn] at h

theorem lutLookup_of_out {cp : CodePoint} (h : cp.toNat < 0xC0 ∨ 0xAB44 < cp.toNat) : lutLookup cp = none :=
  Decidable.byContradiction fun hn => by have := mayBeKey_bounds (mayBeKey_of_key hn); omega

theorem esc_of_key {cp : CodePoint} {m c : Byte} (h : lutLookup cp = some (m, c)) : esc cp = [m, c] := by
  simp [esc, h]

theorem esc_of_not_key {cp : CodePoint} (h : lutLookup cp = none) :
    esc cp = if cp.toNat ≤ 0x7F then [cp.extractLsb' 0 8] else [Config.placeholder] := by
  simp [esc, h]

end Sys2Proof.Machine
end

