-- ==== Sys2Proof/Laws/State.lean ====
section
/-! SUPPORT. One lemma per field per update of the state, so that no proof unfolds a record update. -/

namespace Sys2Proof.Machine

/-! ### cmdError -/

@[simp] theorem cmdError_seq (c : Cause) (s : State) : (cmdError c s).seq = s.seq := rfl
@[simp] theorem cmdError_hold0 (c : Cause) (s : State) : (cmdError c s).hold0 = s.hold0 := rfl
@[simp] theorem cmdError_hold1 (c : Cause) (s : State) : (cmdError c s).hold1 = s.hold1 := rfl
@[simp] theorem cmdError_acc (c : Cause) (s : State) : (cmdError c s).acc = s.acc := rfl
@[simp] theorem cmdError_err (c : Cause) (s : State) : (cmdError c s).err = true := rfl
@[simp] theorem cmdError_cause (c : Cause) (s : State) : (cmdError c s).cause = causeCode c := rfl
@[simp] theorem cmdError_txlog (c : Cause) (s : State) : (cmdError c s).txlog = s.txlog := rfl
@[simp] theorem cmdError_cmdq (c : Cause) (s : State) : (cmdError c s).cmdq = s.cmdq := rfl
@[simp] theorem cmdError_pins (c : Cause) (s : State) : (cmdError c s).pins = s.pins := rfl
@[simp] theorem cmdError_script (c : Cause) (s : State) : (cmdError c s).script = s.script := rfl

/-! ### clearError -/

@[simp] theorem clearError_seq (s : State) : (clearError s).seq = seqIdle := rfl
@[simp] theorem clearError_hold0 (s : State) : (clearError s).hold0 = s.hold0 := rfl
@[simp] theorem clearError_hold1 (s : State) : (clearError s).hold1 = s.hold1 := rfl
@[simp] theorem clearError_acc (s : State) : (clearError s).acc = 0#16 := rfl
@[simp] theorem clearError_err (s : State) : (clearError s).err = false := rfl
@[simp] theorem clearError_cause (s : State) : (clearError s).cause = 0#4 := rfl
@[simp] theorem clearError_txlog (s : State) : (clearError s).txlog = s.txlog := rfl
@[simp] theorem clearError_cmdq (s : State) : (clearError s).cmdq = s.cmdq := rfl
@[simp] theorem clearError_pins (s : State) : (clearError s).pins = s.pins := rfl
@[simp] theorem clearError_script (s : State) : (clearError s).script = s.script := rfl

/-! ### queueOne -/

@[simp] theorem queueOne_seq (b : Byte) (s : State) : (queueOne b s).seq = seqP1 := rfl
@[simp] theorem queueOne_hold0 (b : Byte) (s : State) : (queueOne b s).hold0 = b := rfl
@[simp] theorem queueOne_hold1 (b : Byte) (s : State) : (queueOne b s).hold1 = s.hold1 := rfl
@[simp] theorem queueOne_acc (b : Byte) (s : State) : (queueOne b s).acc = accAdd s.acc b := rfl
@[simp] theorem queueOne_err (b : Byte) (s : State) : (queueOne b s).err = s.err := rfl
@[simp] theorem queueOne_cause (b : Byte) (s : State) : (queueOne b s).cause = s.cause := rfl
@[simp] theorem queueOne_txlog (b : Byte) (s : State) : (queueOne b s).txlog = s.txlog := rfl
@[simp] theorem queueOne_cmdq (b : Byte) (s : State) : (queueOne b s).cmdq = s.cmdq := rfl
@[simp] theorem queueOne_pins (b : Byte) (s : State) : (queueOne b s).pins = s.pins := rfl
@[simp] theorem queueOne_script (b : Byte) (s : State) : (queueOne b s).script = s.script := rfl

/-! ### queueTwo -/

@[simp] theorem queueTwo_seq (m c : Byte) (s : State) : (queueTwo m c s).seq = seqP2a := rfl
@[simp] theorem queueTwo_hold0 (m c : Byte) (s : State) : (queueTwo m c s).hold0 = m := rfl
@[simp] theorem queueTwo_hold1 (m c : Byte) (s : State) : (queueTwo m c s).hold1 = c := rfl
@[simp] theorem queueTwo_acc (m c : Byte) (s : State) : (queueTwo m c s).acc = accAdd (accAdd s.acc m) c := rfl
@[simp] theorem queueTwo_err (m c : Byte) (s : State) : (queueTwo m c s).err = s.err := rfl
@[simp] theorem queueTwo_cause (m c : Byte) (s : State) : (queueTwo m c s).cause = s.cause := rfl
@[simp] theorem queueTwo_txlog (m c : Byte) (s : State) : (queueTwo m c s).txlog = s.txlog := rfl
@[simp] theorem queueTwo_cmdq (m c : Byte) (s : State) : (queueTwo m c s).cmdq = s.cmdq := rfl
@[simp] theorem queueTwo_pins (m c : Byte) (s : State) : (queueTwo m c s).pins = s.pins := rfl
@[simp] theorem queueTwo_script (m c : Byte) (s : State) : (queueTwo m c s).script = s.script := rfl

/-! ### queueHeader -/

@[simp] theorem queueHeader_seq (sel : Byte) (s : State) : (queueHeader sel s).seq = seqHdr0 := rfl
@[simp] theorem queueHeader_hold0 (sel : Byte) (s : State) : (queueHeader sel s).hold0 = sel := rfl
@[simp] theorem queueHeader_hold1 (sel : Byte) (s : State) : (queueHeader sel s).hold1 = s.hold1 := rfl
@[simp] theorem queueHeader_acc (sel : Byte) (s : State) : (queueHeader sel s).acc = accAdd 0x0002#16 sel := rfl
@[simp] theorem queueHeader_err (sel : Byte) (s : State) : (queueHeader sel s).err = s.err := rfl
@[simp] theorem queueHeader_cause (sel : Byte) (s : State) : (queueHeader sel s).cause = s.cause := rfl
@[simp] theorem queueHeader_txlog (sel : Byte) (s : State) : (queueHeader sel s).txlog = s.txlog := rfl
@[simp] theorem queueHeader_cmdq (sel : Byte) (s : State) : (queueHeader sel s).cmdq = s.cmdq := rfl
@[simp] theorem queueHeader_pins (sel : Byte) (s : State) : (queueHeader sel s).pins = s.pins := rfl
@[simp] theorem queueHeader_script (sel : Byte) (s : State) : (queueHeader sel s).script = s.script := rfl

/-! ### queueTrailer -/

@[simp] theorem queueTrailer_seq (s : State) : (queueTrailer s).seq = seqTetx := rfl
@[simp] theorem queueTrailer_hold0 (s : State) : (queueTrailer s).hold0 = s.hold0 := rfl
@[simp] theorem queueTrailer_hold1 (s : State) : (queueTrailer s).hold1 = s.hold1 := rfl
@[simp] theorem queueTrailer_acc (s : State) : (queueTrailer s).acc = accAdd s.acc etx := rfl
@[simp] theorem queueTrailer_err (s : State) : (queueTrailer s).err = s.err := rfl
@[simp] theorem queueTrailer_cause (s : State) : (queueTrailer s).cause = s.cause := rfl
@[simp] theorem queueTrailer_txlog (s : State) : (queueTrailer s).txlog = s.txlog := rfl
@[simp] theorem queueTrailer_cmdq (s : State) : (queueTrailer s).cmdq = s.cmdq := rfl
@[simp] theorem queueTrailer_pins (s : State) : (queueTrailer s).pins = s.pins := rfl
@[simp] theorem queueTrailer_script (s : State) : (queueTrailer s).script = s.script := rfl

/-! ### resetBlock -/

@[simp] theorem resetBlock_seq (s : State) : (resetBlock s).seq = seqIdle := rfl
@[simp] theorem resetBlock_hold0 (s : State) : (resetBlock s).hold0 = 0#8 := rfl
@[simp] theorem resetBlock_hold1 (s : State) : (resetBlock s).hold1 = 0#8 := rfl
@[simp] theorem resetBlock_acc (s : State) : (resetBlock s).acc = 0#16 := rfl
@[simp] theorem resetBlock_err (s : State) : (resetBlock s).err = false := rfl
@[simp] theorem resetBlock_cause (s : State) : (resetBlock s).cause = 0#4 := rfl
@[simp] theorem resetBlock_txlog (s : State) : (resetBlock s).txlog = s.txlog := rfl
@[simp] theorem resetBlock_cmdq (s : State) : (resetBlock s).cmdq = s.cmdq := rfl
@[simp] theorem resetBlock_pins (s : State) : (resetBlock s).pins = s.pins := rfl
@[simp] theorem resetBlock_script (s : State) : (resetBlock s).script = s.script := rfl

/-! ### popWord -/

@[simp] theorem popWord_seq (s : State) : (popWord s).seq = s.seq := rfl
@[simp] theorem popWord_hold0 (s : State) : (popWord s).hold0 = s.hold0 := rfl
@[simp] theorem popWord_hold1 (s : State) : (popWord s).hold1 = s.hold1 := rfl
@[simp] theorem popWord_acc (s : State) : (popWord s).acc = s.acc := rfl
@[simp] theorem popWord_err (s : State) : (popWord s).err = s.err := rfl
@[simp] theorem popWord_cause (s : State) : (popWord s).cause = s.cause := rfl
@[simp] theorem popWord_txlog (s : State) : (popWord s).txlog = s.txlog := rfl
@[simp] theorem popWord_cmdq (s : State) : (popWord s).cmdq = s.cmdq.tail := rfl
@[simp] theorem popWord_pins (s : State) : (popWord s).pins = s.pins := rfl
@[simp] theorem popWord_script (s : State) : (popWord s).script = s.script := rfl

/-! ### offerWord -/

@[simp] theorem offerWord_seq (w : Word) (s : State) : (offerWord w s).seq = s.seq := rfl
@[simp] theorem offerWord_hold0 (w : Word) (s : State) : (offerWord w s).hold0 = s.hold0 := rfl
@[simp] theorem offerWord_hold1 (w : Word) (s : State) : (offerWord w s).hold1 = s.hold1 := rfl
@[simp] theorem offerWord_acc (w : Word) (s : State) : (offerWord w s).acc = s.acc := rfl
@[simp] theorem offerWord_err (w : Word) (s : State) : (offerWord w s).err = s.err := rfl
@[simp] theorem offerWord_cause (w : Word) (s : State) : (offerWord w s).cause = s.cause := rfl
@[simp] theorem offerWord_txlog (w : Word) (s : State) : (offerWord w s).txlog = s.txlog := rfl
@[simp] theorem offerWord_cmdq (w : Word) (s : State) : (offerWord w s).cmdq = w :: s.cmdq := rfl
@[simp] theorem offerWord_pins (w : Word) (s : State) : (offerWord w s).pins = { s.pins with rst := false, cmdEn := true } := rfl
@[simp] theorem offerWord_script (w : Word) (s : State) : (offerWord w s).script = s.script := rfl

/-! ### tick: the inputs move, the block, the log and the channel stay -/

@[simp] theorem tick_seq (s : State) : (tick s).seq = s.seq := by unfold tick; cases s.script <;> rfl
@[simp] theorem tick_hold0 (s : State) : (tick s).hold0 = s.hold0 := by unfold tick; cases s.script <;> rfl
@[simp] theorem tick_hold1 (s : State) : (tick s).hold1 = s.hold1 := by unfold tick; cases s.script <;> rfl
@[simp] theorem tick_acc (s : State) : (tick s).acc = s.acc := by unfold tick; cases s.script <;> rfl
@[simp] theorem tick_err (s : State) : (tick s).err = s.err := by unfold tick; cases s.script <;> rfl
@[simp] theorem tick_cause (s : State) : (tick s).cause = s.cause := by unfold tick; cases s.script <;> rfl
@[simp] theorem tick_txlog (s : State) : (tick s).txlog = s.txlog := by unfold tick; cases s.script <;> rfl
@[simp] theorem tick_cmdq (s : State) : (tick s).cmdq = s.cmdq := by unfold tick; cases s.script <;> rfl

theorem tick_of_nil {s : State} (h : s.script = []) : tick s = s := by simp [tick, h]

theorem tick_of_cons {s : State} {p : Pins} {rest : List Pins} (h : s.script = p :: rest) :
    tick s = { s with pins := p, script := rest } := by simp [tick, h]

/-! ### tick commutes with what leaves the inputs alone -/

theorem tick_eq (s : State) : tick s = { s with pins := (tick s).pins, script := (tick s).script } := by
  unfold tick; cases s.script <;> rfl

end Sys2Proof.Machine
end

