-- ==== Sys2Proof/Laws/Sequencer.lean ====
section
/-! SUPPORT. The sequencer's encodings: what a used, a busy and a drained `seq` is. Facts about all 32 encodings are decided
once here. -/

namespace Sys2Proof.Machine

@[simp] theorem seqOpenw_ne_seqIdle : seqOpenw ≠ seqIdle := by decide
@[simp] theorem seqIdle_ne_seqOpenw : seqIdle ≠ seqOpenw := by decide

theorem phaseOf_isSome_iff (q : BitVec 5) : (phaseOf q).isSome = decide (q.toNat ≤ 0x15) := by
  revert q; decide

theorem idle_or_openw_of_drained (q : BitVec 5) (h : (q != seqIdle && q != seqOpenw) = false) :
    q = seqIdle ∨ q = seqOpenw := by revert q; decide

theorem drained_cases {s : State} (h : busy s = false) : s.seq = seqIdle ∨ s.seq = seqOpenw :=
  idle_or_openw_of_drained s.seq h

@[simp] theorem busy_of_idle {s : State} (h : s.seq = seqIdle) : busy s = false := by simp [busy, h]
@[simp] theorem busy_of_openw {s : State} (h : s.seq = seqOpenw) : busy s = false := by simp [busy, h]

theorem busy_congr {s t : State} (h : t.seq = s.seq) : busy t = busy s := by simp [busy, h]
theorem seqLegal_congr {s t : State} (h : t.seq = s.seq) : seqLegal t = seqLegal s := by simp [seqLegal, h]
theorem causeLegal_congr {s t : State} (h : t.cause = s.cause) : causeLegal t = causeLegal s := by
  simp [causeLegal, h]

theorem seqLegal_of_drained {s : State} (h : busy s = false) : seqLegal s = true := by
  rcases drained_cases h with h | h <;> simp [seqLegal, h]

theorem pend_of_drained {s : State} (h : busy s = false) : pend s = [] := by
  rcases drained_cases h with h | h <;> simp [pend, h, phaseOf, phasePend]

theorem nextByte_of_drained {s : State} (h : busy s = false) : nextByte s = none := by
  rcases drained_cases h with h | h <;> simp [nextByte, h, phaseOf, phaseByte]

/-- `pend` reads `seq`, `hold0`, `hold1` and `acc` only (R22). -/
theorem pend_congr {s t : State} (hq : t.seq = s.seq) (h0 : t.hold0 = s.hold0) (h1 : t.hold1 = s.hold1)
    (ha : t.acc = s.acc) : pend t = pend s := by
  unfold pend; rw [hq]; cases phaseOf s.seq with
  | none => rfl
  | some p => cases p <;> simp [phasePend, h0, h1, ha]

@[simp] theorem busy_tick (s : State) : busy (tick s) = busy s := busy_congr (tick_seq s)
@[simp] theorem pend_tick (s : State) : pend (tick s) = pend s := by
  apply pend_congr <;> simp
@[simp] theorem busy_popWord (s : State) : busy (popWord s) = busy s := rfl
@[simp] theorem seqLegal_tick (s : State) : seqLegal (tick s) = seqLegal s := seqLegal_congr (tick_seq s)
@[simp] theorem seqLegal_popWord (s : State) : seqLegal (popWord s) = seqLegal s := rfl
@[simp] theorem causeLegal_tick (s : State) : causeLegal (tick s) = causeLegal s := causeLegal_congr (tick_cause s)
@[simp] theorem causeLegal_popWord (s : State) : causeLegal (popWord s) = causeLegal s := rfl

/-- A busy state with a used `seq` has a next byte and a next `seq`, and its pending bytes are that byte and what is
pending after it (R22, R64, R65). -/
theorem busy_unfolds {s : State} (hl : seqLegal s = true) (hb : busy s = true) :
    ∃ b q, nextByte s = some b ∧ nextSeq s = some q ∧ q.toNat ≤ 0x15 ∧ pend s = b :: pend { s with seq := q } := by
  obtain ⟨p, hp⟩ : ∃ p, phaseOf s.seq = some p := by
    have := phaseOf_isSome_iff s.seq
    rw [show decide (s.seq.toNat ≤ 0x15) = true from hl] at this
    exact Option.isSome_iff_exists.mp this
  have hbusy : p ≠ .idle ∧ p ≠ .openw := by
    constructor <;> rintro rfl <;> revert hp hb <;> simp only [busy] <;> generalize s.seq = q <;> revert q <;> decide
  cases p with
  | idle => exact absurd rfl hbusy.1
  | openw => exact absurd rfl hbusy.2
  | hdr k =>
    refine ⟨hdrByte k, BitVec.ofNat 5 (k.val + 2), by rw [nextByte, hp]; rfl, by rw [nextSeq, hp]; rfl, ?_, ?_⟩
    · fin_cases k <;> decide
    · rw [pend, hp]; fin_cases k <;> rfl
  | ck j =>
    refine ⟨hexDigitOf s.acc j, BitVec.ofNat 5 (0x15 - j.val), by rw [nextByte, hp]; rfl,
      by rw [nextSeq, hp]; rfl, ?_, ?_⟩
    · fin_cases j <;> decide
    · rw [pend, hp]; fin_cases j <;> rfl
  | _ =>
    refine ⟨_, _, by rw [nextByte, hp]; rfl, by rw [nextSeq, hp]; rfl, by decide, ?_⟩
    rw [pend, hp]; rfl

end Sys2Proof.Machine
end

