-- ==== Sys2Proof/Laws/Ops.lean ====
section
/-! SUPPORT. What each shared operation can do, said once: the gate, the sequence checks, the emission step, and the whole
step. -/

namespace Sys2Proof.Machine

/-! ### The gate and the checks -/

theorem acceptGate_ready {s : State} (act : State → State) (hb : busy s = false) (hc : causeLegal s = true) :
    acceptGate act s = .next (act s) := by
  simp [acceptGate, seqLegal_of_drained hb, hc, hb]

theorem acceptGate_busy {s : State} (act : State → State) (hl : seqLegal s = true) (hc : causeLegal s = true)
    (hb : busy s = true) : acceptGate act s = .next s := by
  simp [acceptGate, hl, hc, hb]

/-- If the gate answers a next state, the state could be run and either the block was busy and nothing changed, or the
action was taken. -/
theorem acceptGate_cases {act : State → State} {s t : State} (h : acceptGate act s = .next t) :
    seqLegal s = true ∧ causeLegal s = true ∧ ((busy s = true ∧ t = s) ∨ (busy s = false ∧ t = act s)) := by
  unfold acceptGate at h
  split at h
  · cases h
  · split at h
    · cases h
    · rename_i h1 h2
      refine ⟨by simpa using h1, by simpa using h2, ?_⟩
      cases hb : busy s <;> simp only [hb, if_true, if_false, Bool.false_eq_true] at h <;> cases h
      · exact .inr ⟨rfl, rfl⟩
      · exact .inl ⟨rfl, rfl⟩

theorem unlessError_cases (act : State → State) (s : State) :
    (s.err = true ∧ unlessError act s = s) ∨ (s.err = false ∧ unlessError act s = act s) := by
  cases h : s.err <;> simp [unlessError, h]

theorem needOpen_cases (act : State → State) (s : State) :
    (s.seq = seqOpenw ∧ needOpen act s = act s) ∨ (s.seq ≠ seqOpenw ∧ needOpen act s = cmdError .notOpen s) := by
  by_cases h : s.seq = seqOpenw <;> simp [needOpen, h]

theorem needIdle_cases (act : State → State) (s : State) :
    (s.seq = seqIdle ∧ needIdle act s = act s) ∨ (s.seq ≠ seqIdle ∧ needIdle act s = cmdError .alreadyOpen s) := by
  by_cases h : s.seq = seqIdle <;> simp [needIdle, h]

theorem esc_cases (cp : CodePoint) : (∃ m c, esc cp = [m, c]) ∨ ∃ b, esc cp = [b] := by
  unfold esc
  split
  · exact .inl ⟨_, _, rfl⟩
  · split <;> exact .inr ⟨_, rfl⟩

theorem queueEsc_cases (cp : CodePoint) (s : State) :
    (∃ m c, esc cp = [m, c] ∧ queueEsc cp s = queueTwo m c s) ∨ ∃ b, esc cp = [b] ∧ queueEsc cp s = queueOne b s := by
  rcases esc_cases cp with ⟨m, c, h⟩ | ⟨b, h⟩
  · exact .inl ⟨m, c, h, by simp [queueEsc, h]⟩
  · exact .inr ⟨b, h, by simp [queueEsc, h]⟩

/-! ### Emission -/

/-- What an emission step does in a busy state with a used `seq`: one byte joins the log and leaves the pending bytes. -/
theorem emitStep_cases {s : State} (hl : seqLegal s = true) (hb : busy s = true) :
    ∃ b q, nextByte s = some b ∧ nextSeq s = some q ∧ q.toNat ≤ 0x15 ∧
      emitStep s = { s with txlog := s.txlog ++ [b], seq := q } ∧ pend s = b :: pend (emitStep s) := by
  obtain ⟨b, q, h1, h2, h3, h4⟩ := busy_unfolds hl hb
  have he : emitStep s = { s with txlog := s.txlog ++ [b], seq := q } := by simp [emitStep, h1, h2]
  exact ⟨b, q, h1, h2, h3, he, by rw [h4, he]; rfl⟩

/-! ### The step -/

/-- Everything a step that answers a next state can be: a reset, a wait or an emission while busy, a step with no word
offered, or the acceptance of a word. -/
theorem step_cases {s t : State} (h : step s = .next t) :
    (s.pins.rst = true ∧ t = tick (resetBlock s)) ∨
    (s.pins.rst = false ∧ seqLegal s = true ∧ causeLegal s = true ∧
      ((busy s = true ∧ s.pins.txReady = true ∧ t = tick (emitStep s)) ∨
       (busy s = true ∧ s.pins.txReady = false ∧ t = tick s) ∨
       (busy s = false ∧ offered s = none ∧ t = tick s) ∨
       (∃ w, busy s = false ∧ offered s = some w ∧ acceptCommand w (tick (popWord s)) = .next t))) := by
  unfold step cycle at h
  cases hr : s.pins.rst
  · cases hl : seqLegal s
    · simp [hr, hl] at h
    · cases hc : causeLegal s
      · simp [hr, hl, hc] at h
      · refine .inr ⟨rfl, rfl, rfl, ?_⟩
        cases hb : busy s
        · cases ho : offered s with
          | none => simp [hr, hl, hc, hb, ho] at h; exact .inr (.inr (.inl ⟨rfl, rfl, h.symm⟩))
          | some w => simp [hr, hl, hc, hb, ho] at h; exact .inr (.inr (.inr ⟨w, rfl, rfl, h⟩))
        · cases ht : s.pins.txReady <;> simp [hr, hl, hc, hb, ht] at h
          · exact .inr (.inl ⟨rfl, rfl, h.symm⟩)
          · exact .inl ⟨rfl, rfl, h.symm⟩
  · simp [hr] at h; exact .inl ⟨rfl, h.symm⟩

/-- The block of a word's acceptance: what AcceptCommand does to a drained state with a cause in 0..4. -/
theorem acceptCommand_ready {w : Word} {s : State} (hb : busy s = false) (hc : causeLegal s = true) :
    ∃ act : State → State, acceptCommand w s = .next (act s) ∧
      ((∃ c, act = unlessError (cmdError c)) ∨ (∃ sel, act = unlessError (needIdle (queueHeader sel))) ∨
       (∃ b, act = unlessError (needOpen (queueOne b))) ∨ (∃ cp, act = unlessError (needOpen (queueEsc cp))) ∨
       act = unlessError (needOpen queueTrailer) ∨ act = clearError) := by
  unfold acceptCommand
  cases hd : decode w with
  | illegalOp => exact ⟨_, acceptGate_ready _ hb hc, .inl ⟨_, rfl⟩⟩
  | rsvdBits => exact ⟨_, acceptGate_ready _ hb hc, .inl ⟨_, rfl⟩⟩
  | instr i =>
    cases i with
    | openPacket sel => exact ⟨_, acceptGate_ready _ hb hc, .inr (.inl ⟨_, rfl⟩)⟩
    | byte b => exact ⟨_, acceptGate_ready _ hb hc, .inr (.inr (.inl ⟨_, rfl⟩))⟩
    | char cp => exact ⟨_, acceptGate_ready _ hb hc, .inr (.inr (.inr (.inl ⟨_, rfl⟩)))⟩
    | close => exact ⟨_, acceptGate_ready _ hb hc, .inr (.inr (.inr (.inr (.inl rfl))))⟩
    | clrErr => exact ⟨_, acceptGate_ready _ hb hc, .inr (.inr (.inr (.inr (.inr rfl))))⟩

end Sys2Proof.Machine
end

