-- ==== Sys2Proof/Laws/PerInstr.lean ====
section
/-! SUPPORT. Statements made per instruction: the family `Encodes` says that a command's word is well formed, its opcode
defined and its reserved bits 0 (30_encoding.md R45 to R47). -/

namespace Sys2Proof.Laws.Encodes

def Statement (i : Instr) : Prop := wellFormedWord (encode i) = true

/-- The word of a command in format S8. -/
theorem s8 (op : BitVec 4) (b : Byte) (h : op = 1#4 ∨ op = 2#4) : wellFormedWord (wordOf op (b.setWidth 28)) = true := by
  have := b.isLt
  rcases h with rfl | rfl <;>
    simp [wellFormedWord, opDefined, reservedClear, extract_eq_zero_iff, wordOf_toNat] <;> omega

theorem openPacket (sel : Byte) : Statement (.openPacket sel) := s8 _ sel (.inl rfl)

theorem byte (b : Byte) : Statement (.byte b) := s8 _ b (.inr rfl)

theorem char (cp : CodePoint) : Statement (.char cp) := by
  have := cp.isLt
  simp [Statement, encode, wellFormedWord, opDefined, reservedClear, extract_eq_zero_iff, wordOf_toNat]
  omega

theorem close : Statement .close := by unfold Statement; decide

theorem clrErr : Statement .clrErr := by unfold Statement; decide

end Sys2Proof.Laws.Encodes
end

