-- ==== Sys2Proof/Tests/Slice0.lean ====
section
/-! SUPPORT. The model's own tests: an ill-formed word for each check, words written out bit by bit from 30_encoding.md,
single steps with the results of 95_test_vectors.md, and for each statement with hypotheses a state that meets them. -/

namespace Sys2Proof.Tests

open Sys2Proof Sys2Proof.Machine Sys2Proof.Safety

/-! ### States -/

/-- A drained state of a block whose host has `ws` to issue. -/
def stateAt (q : BitVec 5) (a : Sum16) (ws : List Word) : State := { State.reset with seq := q, acc := a, cmdq := ws }

/-- `s` with the error flag and a cause. -/
def failed (c : BitVec 4) (s : State) : State := { s with err := true, cause := c }

/-- `s` with given input levels. -/
def driven (p : Pins) (s : State) : State := { s with pins := p }

/-- The next state of an outcome, or reset where there is none. -/
def nextOf (o : Host.Outcome State Fault Refusal) : State :=
  match o with
  | .next t => t
  | .fault _ => State.reset
  | .refused _ => State.reset

/-- What a vector of 95_test_vectors.md lists of a state: pending bytes, acc, STATUS. -/
def shows (s : State) : List Byte × Sum16 × BitVec 16 := (pend s, accReg s, statusReg s)

/-! ### Ill-formed words, one for each check (R45 to R47, R50) -/

theorem test_op_zero_is_undefined : opDefined 0x00000000#32 = false := by decide
theorem test_op_six_is_undefined : opDefined 0x60000000#32 = false := by decide
theorem test_reserved_bits_of_each_format :
    [0x10000100#32, 0x28000000#32, 0x30200000#32, 0x40000001#32, 0x58000000#32].map wellFormedWord =
      [false, false, false, false, false] := by decide
theorem test_legal_words_are_well_formed :
    [0x100000FF#32, 0x20000000#32, 0x301FFFFF#32, 0x40000000#32, 0x50000000#32].map wellFormedWord =
      [true, true, true, true, true] := by decide
theorem test_label_above_ascii_has_no_expansion : expandOp (.writeString 0x80#21 []) = none := by decide
theorem test_month_thirteen_has_no_expansion :
    opWellFormed (.setDate { year := 2024, month := 13, day := 1 }) = false := by decide

/-! ### Words written out bit by bit: OP, reserved zeros, operand (R45 to R47) -/

theorem test_decode_open : decode 0b00010000000000000000000001000111#32 = .instr (.openPacket 0x47#8) := by decide
theorem test_decode_byte : decode 0b00100000000000000000000000110001#32 = .instr (.byte 0x31#8) := by decide
theorem test_decode_char : decode 0b00110000000000011111011000000000#32 = .instr (.char 0x1F600#21) := by decide
theorem test_decode_close : decode 0b01000000000000000000000000000000#32 = .instr .close := by decide
theorem test_decode_clrErr : decode 0b01010000000000000000000000000000#32 = .instr .clrErr := by decide
theorem test_decode_refuses_op_zero : decodeTableWord 32 0x00000047 = none := by decide

/-! ### Single steps (95_test_vectors.md sections 2.2 to 2.5) -/

/-- F1. -/
theorem test_open_queues_header : shows (nextOf (step (stateAt seqIdle 0 [0x10000047#32]))) =
    ([0x00#8, 0x00#8, 0x00#8, 0x00#8, 0x00#8, 0x01#8, 0x5A#8, 0x30#8, 0x30#8, 0x02#8, 0x47#8], 0x0049#16, 0x0103#16) := by
  decide
/-- F11. -/
theorem test_open_while_open : shows (nextOf (step (stateAt seqOpenw 0x49 [0x10000041#32]))) = ([], 0x0049#16, 0x0C45#16) := by
  decide
/-- F10, b = FF; SEQ is P1 and the packet is open and busy. -/
theorem test_byte_is_raw : shows (nextOf (step (stateAt seqOpenw 0x49 [0x200000FF#32]))) = ([0xFF#8], 0x0148#16, 0x0D03#16) := by
  decide
/-- F12. -/
theorem test_byte_without_packet : shows (nextOf (step (stateAt seqIdle 0 [0x20000041#32]))) = ([], 0x0000#16, 0x0034#16) := by
  decide
/-- E15. -/
theorem test_char_escape_pair : shows (nextOf (step (stateAt seqOpenw 0x49 [0x300000E4#32]))) =
    ([0x08#8, 0x24#8], 0x0075#16, 0x0E03#16) := by decide
/-- E12. -/
theorem test_char_placeholder : shows (nextOf (step (stateAt seqOpenw 0x49 [0x301FFFFF#32]))) = ([0x5F#8], 0x00A8#16, 0x0D03#16) := by
  decide
/-- F4. -/
theorem test_close_queues_trailer : shows (nextOf (step (stateAt seqOpenw 0x7A [0x40000000#32]))) =
    ([0x03#8, 0x30#8, 0x30#8, 0x37#8, 0x44#8, 0x04#8], 0x007D#16, 0x1002#16) := by decide
/-- F13. -/
theorem test_close_without_packet : shows (nextOf (step (stateAt seqIdle 0 [0x40000000#32]))) = ([], 0x0000#16, 0x0034#16) := by
  decide
/-- F15. -/
theorem test_clrErr_abandons : shows (nextOf (step (stateAt seqOpenw 0x7A [0x50000000#32]))) = ([], 0x0000#16, 0x0000#16) := by
  decide
/-- X5. -/
theorem test_clrErr_with_reserved_bit : shows (nextOf (step (failed 2 (stateAt seqIdle 0 [0x50000001#32])))) =
    ([], 0x0000#16, 0x0024#16) := by decide
/-- X8. -/
theorem test_illegal_op_comes_first : shows (nextOf (step (stateAt seqOpenw 0x49 [0x00000000#32]))) = ([], 0x0049#16, 0x0C15#16) := by
  decide
/-- E15, the second half: one transfer takes the marker. -/
theorem test_emission_of_marker :
    (nextOf (step { stateAt seqP2a 0x75 [] with hold0 := 0x08#8, hold1 := 0x24#8 })).txlog = [0x08#8] := by decide
/-- C5, C6. -/
theorem test_accAdd_at_the_modulus : accAdd 0xFF00#16 0xFF#8 = 0x0000#16 ∧ accAdd 0xFEFF#16 0xFF#8 = 0xFFFE#16 := by decide
/-- C13. -/
theorem test_hex4_uppercase : hex4 0xABCD#16 = [0x41#8, 0x42#8, 0x43#8, 0x44#8] := by decide
/-- P1: the checksum of the packet of write_string '1' "Hi". -/
theorem test_packet_checksum : cksum [0x47#8, 0x31#8, 0x48#8, 0x69#8] = 0x012E#16 := by decide
theorem test_withFetchWord_runs : (nextOf (step (State.reset.withFetchWord 32 0x10000000))).seq = seqHdr0 := by decide

/-! ### Witnesses: for each statement with hypotheses, values that meet them -/

theorem witness_ResetValues : (driven ⟨true, true, true⟩ State.reset).pins.rst = true := rfl
theorem witness_ResetStepClearsBlock : (driven ⟨true, false, false⟩ (stateAt 0x1F 0xFFFF [])).pins.rst = true := rfl

/-- The least and the greatest word of each clause of R49. -/
theorem witness_DecodeFollowsBitFields :
    [0x10000000#32, 0x1FFFFFFF#32, 0x2FFFFFFF#32, 0x3FFFFFFF#32, 0x4FFFFFFF#32, 0x5FFFFFFF#32, 0x0FFFFFFF#32,
      0x60000000#32, 0xFFFFFFFF#32].map (fun w => w.toNat / 2 ^ 28) = [1, 1, 2, 3, 4, 5, 0, 6, 15] := by decide

theorem witness_StepRunsDecodedCommand :
    let s := stateAt seqIdle 0 [0x10000047#32]
    s.pins.rst = false ∧ s.pins.cmdEn = true ∧ seqLegal s = true ∧ causeLegal s = true ∧ busy s = false ∧
      s.cmdq = 0x10000047#32 :: [] ∧ decode 0x10000047#32 = .instr (.openPacket 0x47#8) := by decide

/-- A word accepted, no word offered, and a busy block. -/
theorem witness_CommandChannel :
    let s := stateAt seqOpenw 0 [0x00000000#32]
    let idle := stateAt seqIdle 0 []
    let b := stateAt seqTeot 0 [0x00000000#32]
    (s.pins.rst = false ∧ seqLegal s = true ∧ causeLegal s = true ∧ offered s = some 0x00000000#32 ∧ cmdReady s = true) ∧
    (idle.pins.rst = false ∧ seqLegal idle = true ∧ causeLegal idle = true ∧ offered idle = none) ∧
    (b.pins.rst = false ∧ seqLegal b = true ∧ causeLegal b = true ∧ cmdReady b = false) := by decide

/-- What the rules of OPEN, BYTE, CHAR, CLOSE and CLRERR suppose: IDLE, OPENW, and a busy block, the last in SELB. -/
theorem witness_command_rules :
    let i := stateAt seqIdle 0 []
    let o := stateAt seqOpenw 0xFFFE []
    let b := stateAt seqSelb 0 []
    (seqLegal i = true ∧ causeLegal i = true ∧ i.err = false ∧ i.seq = seqIdle ∧ busy i = false) ∧
    (seqLegal o = true ∧ causeLegal o = true ∧ o.err = false ∧ o.seq = seqOpenw ∧ busy o = false) ∧
    (seqLegal b = true ∧ causeLegal b = true ∧ busy b = true ∧ b.pins.rst = false) := by decide

theorem witness_BusyExecChangesNothing :
    seqLegal (stateAt seqTeot 0 []) = true ∧ causeLegal (stateAt seqTeot 0 []) = true ∧ busy (stateAt seqTeot 0 []) = true := by
  decide

theorem witness_OpenQueuesHeaderAndSelector : seqLegal (stateAt seqIdle 0 []) = true ∧ causeLegal (stateAt seqIdle 0 []) = true ∧
    (stateAt seqIdle 0 []).err = false ∧ (stateAt seqIdle 0 []).seq = seqIdle := by decide
theorem witness_ByteQueuesOneRawByte : seqLegal (stateAt seqOpenw 0 []) = true ∧ causeLegal (stateAt seqOpenw 0 []) = true ∧
    (stateAt seqOpenw 0 []).err = false ∧ (stateAt seqOpenw 0 []).seq = seqOpenw := by decide

/-- R78's clauses at code points where they meet: a key, 0x7F, 0x80, and a pair and a single byte from Esc. -/
theorem witness_CharQueuesEscapedBytes :
    lutLookup 0xE4#21 = some (0x08#8, 0x24#8) ∧ esc 0xE4#21 = [0x08#8, 0x24#8] ∧ esc 0x7F#21 = [0x7F#8] ∧
    lutLookup 0x7F#21 = none ∧ lutLookup 0x80#21 = none ∧ (0x7F#21).toNat ≤ 0x7F ∧ 0x7F < (0x80#21).toNat := by decide

/-- A busy step, an emission of EOT, and a command that changes ACC in IDLE. -/
theorem witness_CloseQueuesTrailer :
    let s := stateAt seqTetx 0x7D []
    let e := stateAt seqTeot 0x7D []
    (s.pins.rst = false ∧ step s = .next (nextOf (step s)) ∧ busy s = true) ∧
    (e.pins.rst = false ∧ e.pins.txReady = true ∧ step e = .next (nextOf (step e)) ∧ e.seq = seqTeot) ∧
    (acceptCommand 0x50000000#32 (stateAt seqIdle 0x7D []) = .next (nextOf (acceptCommand 0x50000000#32 (stateAt seqIdle 0x7D []))) ∧
      (nextOf (acceptCommand 0x50000000#32 (stateAt seqIdle 0x7D []))).acc ≠ (stateAt seqIdle 0x7D []).acc) :=
  ⟨⟨rfl, rfl, rfl⟩, ⟨rfl, rfl, rfl, rfl⟩, rfl, by decide⟩

theorem witness_ClrErrAbandonsPacket :
    busy (failed 4 (stateAt seqOpenw 0 [])) = false ∧ seqLegal (failed 4 (stateAt seqOpenw 0 [])) = true ∧
    causeLegal (failed 4 (stateAt seqOpenw 0 [])) = true ∧ (0x50000001#32).toNat / 2 ^ 28 = 5 ∧
    (0x50000001#32).toNat % 2 ^ 28 ≠ 0 := by decide

theorem witness_CharActsAsByteOnAscii : (0x00#21).toNat ≤ 0x7F ∧ (0x7F#21).toNat ≤ 0x7F := by decide

theorem witness_FrameOfOpenAndByte :
    exec (.openPacket 0x00#8) (stateAt seqIdle 0 []) = .next (nextOf (exec (.openPacket 0x00#8) (stateAt seqIdle 0 []))) ∧
    exec (.byte 0xFF#8) (stateAt seqIdle 0 []) = .next (nextOf (exec (.byte 0xFF#8) (stateAt seqIdle 0 []))) := ⟨rfl, rfl⟩
theorem witness_FrameOfChar :
    exec (.char 0x7F#21) (stateAt seqOpenw 0 []) = .next (nextOf (exec (.char 0x7F#21) (stateAt seqOpenw 0 []))) ∧
    (esc 0x7F#21).length = 1 := ⟨rfl, rfl⟩
theorem witness_FrameOfClose :
    exec .close (stateAt seqOpenw 0 []) = .next (nextOf (exec .close (stateAt seqOpenw 0 []))) := rfl
theorem witness_FrameOfClrErr :
    exec .clrErr (stateAt seqOpenw 0 []) = .next (nextOf (exec .clrErr (stateAt seqOpenw 0 []))) := rfl

/-- R104's clauses: the words at the ends of the reserved opcodes, one reserved bit of each format, and the sequence
errors. -/
theorem witness_RejectionCauses :
    let i := stateAt seqIdle 0 []
    let o := stateAt seqOpenw 0 []
    (seqLegal i = true ∧ causeLegal i = true ∧ busy i = false ∧ i.err = false ∧ i.seq = seqIdle) ∧
    (seqLegal o = true ∧ causeLegal o = true ∧ busy o = false ∧ o.err = false ∧ o.seq = seqOpenw) ∧
    [0x0FFFFFFF#32, 0x60000000#32].map (fun w => w.toNat / 2 ^ 28) = [0, 6] ∧
    (0x10000100#32).toNat / 2 ^ 8 % 2 ^ 20 ≠ 0 ∧ (0x30200000#32).toNat / 2 ^ 21 % 2 ^ 7 ≠ 0 ∧
    (0x40000001#32).toNat % 2 ^ 28 ≠ 0 := by decide

theorem witness_DiscardWhileError :
    let s := failed 1 (stateAt seqOpenw 0 [])
    seqLegal s = true ∧ causeLegal s = true ∧ busy s = false ∧ s.err = true ∧ 0x50000001#32 ≠ 0x50000000#32 := by decide

theorem witness_ErrorsArePrecise :
    let s := stateAt seqIdle 0 []
    busy s = false ∧ acceptCommand 0#32 s = .next (nextOf (acceptCommand 0#32 s)) ∧
      (nextOf (acceptCommand 0#32 s)).err = true := ⟨rfl, rfl, rfl⟩

theorem witness_UnusedSeqFaults :
    0x16 ≤ (stateAt 0x16 0 []).seq.toNat ∧ (stateAt 0x16 0 []).pins.rst = false ∧ JustReset State.reset ∧
    run 0 State.reset = .next State.reset := ⟨by decide, rfl, ⟨rfl, rfl, rfl, rfl, rfl, rfl⟩, rfl⟩

theorem witness_ReservedCauseFaults :
    (failed 5 (stateAt seqIdle 0 [])).seq.toNat ≤ 0x15 ∧ 5 ≤ (failed 5 (stateAt seqIdle 0 [])).cause.toNat ∧
    (failed 5 (stateAt seqIdle 0 [])).pins.rst = false ∧
    (driven ⟨true, true, true⟩ (failed 5 (stateAt seqIdle 0 []))).pins.rst = true := by decide

/-- Every encoding of `seq`, so every clause of R22, is some state's. -/
theorem witness_PendingBytes (q : BitVec 5) : (stateAt q 0 []).seq = q := rfl

theorem witness_OutputChannel :
    let s := stateAt seqTeot 0 []
    let i := stateAt seqIdle 0 []
    (seqLegal s = true ∧ txValid s = true ∧ s.pins.rst = false ∧ step s = .next (nextOf (step s))) ∧
    (seqLegal i = true ∧ txValid i = false) := ⟨⟨rfl, rfl, rfl, rfl⟩, rfl, rfl⟩

/-- Every encoding of `seq`, with the transport ready; the header states at both ends. -/
theorem witness_EmissionTable (q : BitVec 5) :
    (stateAt q 0 []).pins.rst = false ∧ causeLegal (stateAt q 0 []) = true ∧ (stateAt q 0 []).pins.txReady = true ∧
    (stateAt q 0 []).seq = q ∧ seqHdr0 = BitVec.ofNat 5 (0 + 1) ∧ 0x0A#5 = BitVec.ofNat 5 (9 + 1) :=
  ⟨rfl, rfl, rfl, rfl, rfl, rfl⟩

theorem witness_StreamIsOrdered :
    let s := stateAt seqP1 0 []
    let o := stateAt seqIdle 0 [0x50000000#32]
    (s.pins.rst = false ∧ busy s = true ∧ step s = .next (nextOf (step s))) ∧
    (step o = .next (nextOf (step o)) ∧ (nextOf (step o)).cmdq ≠ o.cmdq) := ⟨⟨rfl, rfl, rfl⟩, rfl, by decide⟩

theorem witness_StalledTransportHangs :
    let s := { driven ⟨false, true, false⟩ (stateAt seqHdr0 0x49 []) with script := [⟨false, false, false⟩] }
    let r := driven ⟨true, true, false⟩ (stateAt seqHdr0 0x49 [])
    (seqLegal s = true ∧ causeLegal s = true ∧ busy s = true ∧ s.pins.txReady = false ∧ s.pins.rst = false ∧
      ∀ p ∈ s.script, p.txReady = false ∧ p.rst = false) ∧
    (seqLegal r = true ∧ causeLegal r = true ∧ busy r = true ∧ r.pins.rst = true) := by decide

theorem witness_noReset {s : State} (h : s.pins.rst = false) (hs : s.script = []) : NoReset s :=
  ⟨h, by simp [hs]⟩

/-- A word the host withholds, and no word left. -/
theorem witness_IdleHoldsState :
    let w := driven ⟨false, false, true⟩ (stateAt seqOpenw 0x49 [0x40000000#32])
    let s := stateAt seqOpenw 0x49 []
    (seqLegal w = true ∧ causeLegal w = true ∧ busy w = false ∧ offered w = none ∧ w.pins.rst = false) ∧
    (seqLegal s = true ∧ causeLegal s = true ∧ busy s = false ∧ s.cmdq = [] ∧ NoReset s) :=
  ⟨⟨rfl, rfl, rfl, rfl, rfl⟩, rfl, rfl, rfl, rfl, witness_noReset rfl rfl⟩

theorem witness_AccRegister : JustReset State.reset ∧ run 0 State.reset = .next State.reset :=
  ⟨⟨rfl, rfl, rfl, rfl, rfl, rfl⟩, rfl⟩

/-- Sums just below and at the modulus. -/
theorem witness_AccAddIsModularSum :
    (0xFFFE#16).toNat ≤ 65534 ∧ 65535 ≤ (0xFFFE#16).toNat + (0x01#8).toNat ∧
    (0xFFFE#16).toNat + (0x00#8).toNat < 65535 := by decide

theorem witness_AccumulationIsChecksum : [0x31#8, 0x48#8].Perm [0x48#8, 0x31#8] := List.Perm.swap _ _ _

theorem witness_ChecksumRange : 65534 ≤ 65534 ∧ 0 ≤ 65534 := by decide

/-- A payload at each end of each clause: sums 65534, 65535, 65535 * 65536 - 1 and 65535 * 65536. -/
theorem witness_ChecksumIsNotWraparound (n : Nat) :
    2 + ((List.replicate n 0x01#8).map BitVec.toNat).sum + 3 = n + 5 := by
  rw [List.map_replicate, List.sum_replicate]
  simp
  omega

/-- A key, the ends of the ASCII range, the ends of the surrogates, and the values above Unicode. -/
theorem witness_EscapeOfEveryCodePoint :
    lutLookup 0xE4#21 = some (0x08#8, 0x24#8) ∧ lutLookup 0x00#21 = none ∧ lutLookup 0x7F#21 = none ∧
    lutLookup 0x80#21 = none ∧ lutLookup 0xD800#21 = none ∧ lutLookup 0xDFFF#21 = none ∧ lutLookup 0x110000#21 = none := by
  decide

theorem witness_EscapeMapConstraints : lutLookup 0xE4#21 ≠ none := by decide
/-- R79 point 3: thorn, sharp s, turned a, the Kelvin sign and an unassigned code point are no accented Latin letters; the
letters on either side of the first two are. -/
theorem test_letters_without_accent_are_no_keys :
    [0xDE#21, 0xDF#21, 0x250#21, 0x212A#21, 0x1DF2B#21].map mayBeKey = [false, false, false, false, false] ∧
    [0xDD#21, 0xE0#21].map mayBeKey = [true, true] := by decide

theorem witness_stateInv_reset : StateInv State.reset where
  seqUsed := by decide
  accRange := by decide
  noErrCause := fun _ => rfl
  errCause := fun h => by cases h
  errDrained := fun h => by cases h

/-- A drained IDLE state whose host has a packet with an empty body to send. -/
def emptyPacket : State := stateAt seqIdle 0 [encode (.openPacket 0x47#8), encode .close]

theorem stateInv_emptyPacket : StateInv emptyPacket where
  seqUsed := by decide
  accRange := by decide
  noErrCause := fun _ => rfl
  errCause := fun h => by cases h
  errDrained := fun h => by cases h

theorem witness_FramedRunPutsPacketOnWire :
    StateInv emptyPacket ∧ emptyPacket.seq = seqIdle ∧ emptyPacket.err = false ∧ NoReset emptyPacket ∧
    (∀ c ∈ ([] : List Instr), isPayload c = true) ∧
    emptyPacket.cmdq = ([Instr.openPacket 0x47#8] ++ [] ++ [Instr.close]).map encode ++ [] ∧
    run 19 emptyPacket = .next (nextOf (run 19 emptyPacket)) ∧ (nextOf (run 19 emptyPacket)).cmdq = [] ∧
    busy (nextOf (run 19 emptyPacket)) = false :=
  ⟨stateInv_emptyPacket, rfl, rfl, witness_noReset rfl rfl, by simp, rfl, rfl, rfl, rfl⟩

theorem witness_FramedRunCompletes :
    StateInv emptyPacket ∧ emptyPacket.seq = seqIdle ∧ emptyPacket.err = false ∧ Prompt emptyPacket ∧
    (∀ c ∈ ([] : List Instr), isPayload c = true) ∧
    emptyPacket.cmdq = ([Instr.openPacket 0x47#8] ++ [] ++ [Instr.close]).map encode ++ [] :=
  ⟨stateInv_emptyPacket, rfl, rfl, ⟨rfl, rfl⟩, by simp, rfl⟩

/-- Two timings of the same word: one step with a prompt transport, and a withheld word first. -/
theorem witness_TimingDoesNotChangeBytes :
    let s₁ := stateAt seqIdle 0 [0x10000047#32]
    let s₂ := { driven ⟨false, false, true⟩ s₁ with script := [⟨false, true, true⟩] }
    SameButTiming s₁ s₂ ∧ NoReset s₁ ∧ NoReset s₂ ∧ run 1 s₁ = .next (nextOf (run 1 s₁)) ∧
    run 2 s₂ = .next (nextOf (run 2 s₂)) ∧ (nextOf (run 1 s₁)).cmdq.length = (nextOf (run 2 s₂)).cmdq.length ∧
    busy s₁ = busy s₂ ∧ busy s₁ = false :=
  ⟨rfl, witness_noReset rfl rfl, ⟨rfl, by simp⟩, rfl, rfl, rfl, rfl, rfl⟩

theorem witness_StepKeepsInvariants :
    StateInv emptyPacket ∧ step emptyPacket = .next (nextOf (step emptyPacket)) := ⟨stateInv_emptyPacket, rfl⟩
theorem witness_ReachableStatesMeetInvariants : JustReset emptyPacket := ⟨rfl, rfl, rfl, rfl, rfl, rfl⟩
theorem witness_LogOnlyGrows : step emptyPacket = .next (nextOf (step emptyPacket)) := rfl

/-- An operation whose expansion names no open parameter, and a state whose host has it to send. -/
theorem witness_HostOperationIsOnePacket :
    let op := HostOp.writeString 0x31#21 []
    let is := [Instr.openPacket 0x47#8, .byte 0x31#8, .close]
    let s := stateAt seqIdle 0 (is.map encode)
    expandOp op = some is ∧ StateInv s ∧ s.seq = seqIdle ∧ s.err = false ∧ Prompt s ∧ s.cmdq = is.map encode ++ [] :=
  ⟨by decide, ⟨by decide, by decide, fun _ => rfl, fun h => (by cases h), fun h => (by cases h)⟩, rfl, rfl, ⟨rfl, rfl⟩, rfl⟩

theorem witness_TextOperations : (0x7F#21).toNat ≤ 0x7F ∧ 0x7F < (0x80#21).toNat := by decide

theorem witness_UnknownModeActsAsRotate : modeKnown "" = false := by decide
theorem test_named_mode_is_in_the_table : modeKnown "roll-left" = true := by decide

theorem witness_SpecialOperationBodies : HostOp.softReset ∈ [HostOp.softReset, .setMemoryMap] ∧
    (HostOp.readErrorRegister, SubCmd.readErr) ∈ [(HostOp.readErrorRegister, SubCmd.readErr), (.readMemorySize, .memSize)] := by
  decide

theorem witness_MemoryMapSlots :
    { label := [0x41#8], kind := .text, capacity := 256, runAlways := true } ∈ memorySlots ∧
    { label := [0x31#8, 0x30#8], kind := .string, capacity := 125, runAlways := false } ∈ memorySlots :=
  ⟨mem_memorySlots.mpr (by decide), mem_memorySlots.mpr (by decide)⟩

/-- A spelling of each mnemonic, and the operands where the clauses meet. -/
theorem witness_AssemblerRefusesOutOfRange :
    ['o', 'P', 'e', 'n'].map Char.toUpper = ['O', 'P', 'E', 'N'] ∧ ['b', 'y', 't', 'e'].map Char.toUpper = ['B', 'Y', 'T', 'E'] ∧
    ['C', 'h', 'a', 'r'].map Char.toUpper = ['C', 'H', 'A', 'R'] ∧
    ['c', 'l', 'o', 's', 'e'].map Char.toUpper = ['C', 'L', 'O', 'S', 'E'] ∧
    ['C', 'l', 'r', 'E', 'r', 'r'].map Char.toUpper = ['C', 'L', 'R', 'E', 'R', 'R'] ∧
    0xFF ≤ 0xFF ∧ 0xFF < 0x100 ∧ 0x1FFFFF ≤ 0x1FFFFF ∧ 0x1FFFFF < 0x200000 ∧ ('G').toNat ≤ 0x7F ∧ 0x7F < ('ä').toNat := by
  decide

theorem witness_SpecialArguments : (12 : Nat) < 100 ∧ (31 : Nat) < 100 := by decide

theorem witness_FrameIsEncode :
    let s := stateAt seqIdle 0 ((frameSeq 0x47#8 [0x31#8]).map encode)
    StateInv s ∧ s.seq = seqIdle ∧ s.err = false ∧ Prompt s ∧ s.cmdq = (frameSeq 0x47#8 [0x31#8]).map encode ++ [] ∧
      Instr.byte 0x31#8 ∈ bytesSeq [0x31#8] :=
  ⟨⟨by decide, by decide, fun _ => rfl, fun h => (by cases h), fun h => (by cases h)⟩, rfl, rfl, ⟨rfl, rfl⟩, rfl, by decide⟩

end Sys2Proof.Tests
end

/-! Proofs of the statements of 10_state.md: the state, its flags, the two handshakes and the invariants of every run. -/

namespace Sys2Proof.Machine

/-! ### The gate before every command -/

theorem acceptGate_unusedSeq {s : State} (act : State → State) (hl : seqLegal s = false) :
    acceptGate act s = .fault .unusedSeq := by
  simp [acceptGate, hl]

/-- The meaning of every command is an action behind the gate (R59). -/
theorem exec_eq_acceptGate (i : Instr) : ∃ act, ∀ s, exec i s = acceptGate act s := by
  cases i with
  | openPacket sel => exact ⟨_, fun _ => rfl⟩
  | byte b => exact ⟨_, fun _ => rfl⟩
  | char cp => exact ⟨_, fun _ => rfl⟩
  | close => exact ⟨_, fun _ => rfl⟩
  | clrErr => exact ⟨_, fun _ => rfl⟩

theorem acceptCommand_eq_acceptGate (w : Word) : ∃ act, ∀ s, acceptCommand w s = acceptGate act s := by
  simp only [acceptCommand]
  cases decode w with
  | illegalOp => exact ⟨_, fun _ => rfl⟩
  | rsvdBits => exact ⟨_, fun _ => rfl⟩
  | instr i => exact exec_eq_acceptGate i

/-! ### What the acceptance of a word does -/

/-- Every effect an accepted word can have on a drained block, each with the registers that lead to it (R59 to R63, R78,
R104, R107). -/
inductive AcceptEffect (s : State) : State → Prop
  | discarded (he : s.err = true) : AcceptEffect s s
  | rejected (c : Cause) (he : s.err = false) : AcceptEffect s (cmdError c s)
  | opened (sel : Byte) (he : s.err = false) (hq : s.seq = seqIdle) : AcceptEffect s (queueHeader sel s)
  | queuedOne (b : Byte) (he : s.err = false) (hq : s.seq = seqOpenw) : AcceptEffect s (queueOne b s)
  | queuedTwo (m c : Byte) (he : s.err = false) (hq : s.seq = seqOpenw) : AcceptEffect s (queueTwo m c s)
  | closed (he : s.err = false) (hq : s.seq = seqOpenw) : AcceptEffect s (queueTrailer s)
  | cleared : AcceptEffect s (clearError s)

theorem acceptEffect_unlessError {act : State → State} {s : State}
    (h : s.err = false → AcceptEffect s (act s)) : AcceptEffect s (unlessError act s) := by
  obtain ⟨he, ha⟩ | ⟨he, ha⟩ := unlessError_cases act s
  · rw [ha]; exact .discarded he
  · rw [ha]; exact h he

theorem acceptEffect_needOpen {act : State → State} {s : State} (he : s.err = false)
    (h : s.seq = seqOpenw → AcceptEffect s (act s)) : AcceptEffect s (needOpen act s) := by
  obtain ⟨hq, ha⟩ | ⟨-, ha⟩ := needOpen_cases act s
  · rw [ha]; exact h hq
  · rw [ha]; exact .rejected .notOpen he

theorem acceptEffect_needIdle {act : State → State} {s : State} (he : s.err = false)
    (h : s.seq = seqIdle → AcceptEffect s (act s)) : AcceptEffect s (needIdle act s) := by
  obtain ⟨hq, ha⟩ | ⟨-, ha⟩ := needIdle_cases act s
  · rw [ha]; exact h hq
  · rw [ha]; exact .rejected .alreadyOpen he

theorem acceptEffect_queueEsc (cp : CodePoint) {s : State} (he : s.err = false) (hq : s.seq = seqOpenw) :
    AcceptEffect s (queueEsc cp s) := by
  obtain ⟨m, c, -, ha⟩ | ⟨b, -, ha⟩ := queueEsc_cases cp s
  · rw [ha]; exact .queuedTwo m c he hq
  · rw [ha]; exact .queuedOne b he hq

/-- A drained block with a cause in 0..4 answers every word, and only in the ways `AcceptEffect` lists. -/
theorem acceptCommand_effect {s : State} (w : Word) (hb : busy s = false) (hc : causeLegal s = true) :
    ∃ t, acceptCommand w s = .next t ∧ AcceptEffect s t := by
  obtain ⟨act, h, hact⟩ := acceptCommand_ready (w := w) hb hc
  refine ⟨act s, h, ?_⟩
  obtain ⟨c, rfl⟩ | ⟨sel, rfl⟩ | ⟨b, rfl⟩ | ⟨cp, rfl⟩ | rfl | rfl := hact
  · exact acceptEffect_unlessError (.rejected c)
  · exact acceptEffect_unlessError fun he => acceptEffect_needIdle he (.opened sel he)
  · exact acceptEffect_unlessError fun he => acceptEffect_needOpen he (.queuedOne b he)
  · exact acceptEffect_unlessError fun he => acceptEffect_needOpen he (acceptEffect_queueEsc cp he)
  · exact acceptEffect_unlessError fun he => acceptEffect_needOpen he (.closed he)
  · exact .cleared

theorem AcceptEffect.txlog_eq {s t : State} (h : AcceptEffect s t) : t.txlog = s.txlog := by
  cases h <;> rfl

theorem AcceptEffect.cmdq_eq {s t : State} (h : AcceptEffect s t) : t.cmdq = s.cmdq := by
  cases h <;> rfl

/-! ### The step, case by case -/

theorem step_reset {s : State} (hr : s.pins.rst = true) : step s = .next (tick (resetBlock s)) := by
  simp [step, cycle, hr]

theorem step_unusedSeq {s : State} (hr : s.pins.rst = false) (hl : seqLegal s = false) :
    step s = .fault .unusedSeq := by
  simp [step, cycle, hr, hl]

theorem step_busy {s : State} (hr : s.pins.rst = false) (hl : seqLegal s = true) (hc : causeLegal s = true)
    (hb : busy s = true) : step s = .next (tick (if s.pins.txReady then emitStep s else s)) := by
  simp [step, cycle, hr, hl, hc, hb]

theorem step_noWord {s : State} (hr : s.pins.rst = false) (hc : causeLegal s = true) (hb : busy s = false)
    (ho : offered s = none) : step s = .next (tick s) := by
  simp [step, cycle, hr, seqLegal_of_drained hb, hc, hb, ho]

theorem step_accept {s : State} {w : Word} (hr : s.pins.rst = false) (hc : causeLegal s = true)
    (hb : busy s = false) (ho : offered s = some w) : step s = acceptCommand w (tick (popWord s)) := by
  simp [step, cycle, hr, seqLegal_of_drained hb, hc, hb, ho]

/-- A word accepted in a step: the answer is one of `AcceptEffect`'s on the block whose word has left the channel. -/
theorem step_accept_effect {s : State} {w : Word} (hr : s.pins.rst = false) (hc : causeLegal s = true)
    (hb : busy s = false) (ho : offered s = some w) :
    ∃ t, step s = .next t ∧ AcceptEffect (tick (popWord s)) t := by
  rw [step_accept hr hc hb ho]
  exact acceptCommand_effect w (by simpa using hb) (by simpa using hc)

/-- With a used `seq` and no reserved cause a step never stops. -/
theorem step_answers {s : State} (hl : seqLegal s = true) (hc : causeLegal s = true) : ∃ t, step s = .next t := by
  cases hr : s.pins.rst with
  | true => exact ⟨_, step_reset hr⟩
  | false =>
    cases hb : busy s with
    | true => exact ⟨_, step_busy hr hl hc hb⟩
    | false =>
      cases ho : offered s with
      | none => exact ⟨_, step_noWord hr hc hb ho⟩
      | some w =>
        obtain ⟨t, ht, -⟩ := step_accept_effect hr hc hb ho
        exact ⟨t, ht⟩

/-- What a step does, with the acceptance of a word resolved into its effects. -/
theorem step_effect {s t : State} (h : step s = .next t) :
    (s.pins.rst = true ∧ t = tick (resetBlock s)) ∨
    (s.pins.rst = false ∧ seqLegal s = true ∧ causeLegal s = true ∧
      ((busy s = true ∧ s.pins.txReady = true ∧ t = tick (emitStep s)) ∨
       (busy s = true ∧ s.pins.txReady = false ∧ t = tick s) ∨
       (busy s = false ∧ offered s = none ∧ t = tick s) ∨
       (busy s = false ∧ AcceptEffect (tick (popWord s)) t))) := by
  obtain hreset | ⟨hr, hl, hc, hrest⟩ := step_cases h
  · exact .inl hreset
  · refine .inr ⟨hr, hl, hc, ?_⟩
    obtain he | hw | hn | ⟨w, hb, ho, -⟩ := hrest
    · exact .inl he
    · exact .inr (.inl hw)
    · exact .inr (.inr (.inl hn))
    · obtain ⟨u, hu, heff⟩ := step_accept_effect hr hc hb ho
      cases h.symm.trans hu
      exact .inr (.inr (.inr ⟨hb, heff⟩))

/-! ### Emission and the log -/

@[simp] theorem emitStep_cmdq (s : State) : (emitStep s).cmdq = s.cmdq := by
  unfold emitStep; split <;> rfl

theorem pend_head_of_busy {s : State} (hl : seqLegal s = true) (hb : busy s = true) :
    (pend s).head? = some (txData s) := by
  obtain ⟨b, q, hnext, -, -, hpend⟩ := busy_unfolds hl hb
  simp [hpend, txData, hnext]

theorem txData_of_drained {s : State} (hb : busy s = false) : txData s = 0x00#8 := by
  simp [txData, nextByte_of_drained hb]

theorem emitStep_txlog {s : State} (hl : seqLegal s = true) (hb : busy s = true) :
    (emitStep s).txlog = s.txlog ++ [txData s] := by
  obtain ⟨b, q, hnext, -, -, hemit, -⟩ := emitStep_cases hl hb
  simp [hemit, txData, hnext]

/-- A step without reset transfers `tx_data` exactly if `tx_valid` and `tx_ready` are 1 (R26, R27). -/
theorem step_txlog {s t : State} (hr : s.pins.rst = false) (h : step s = .next t) :
    t.txlog = if txValid s = true ∧ s.pins.txReady = true then s.txlog ++ [txData s] else s.txlog := by
  obtain ⟨hreset, -⟩ | ⟨-, hl, -, hrest⟩ := step_effect h
  · simp [hr] at hreset
  · obtain ⟨hb, ht, rfl⟩ | ⟨hb, ht, rfl⟩ | ⟨hb, -, rfl⟩ | ⟨hb, heff⟩ := hrest
    · simp [txValid, hb, ht, emitStep_txlog hl hb]
    · simp [txValid, hb, ht]
    · simp [txValid, hb]
    · simp [txValid, hb, heff.txlog_eq]

/-! ### The pending bytes, phase by phase -/

theorem phaseOf_hdr (k : Fin 10) : phaseOf (BitVec.ofNat 5 (k.val + 1)) = some (.hdr k) := by
  revert k; decide

theorem phaseOf_ck (j : Fin 4) : phaseOf (BitVec.ofNat 5 (0x14 - j.val)) = some (.ck j) := by
  revert j; decide

theorem phaseOf_eq_hdr0_iff (q : BitVec 5) : phaseOf q = some (.hdr 0) ↔ q = seqHdr0 := by
  revert q; decide

theorem exists_phaseOf {s : State} (hl : seqLegal s = true) : ∃ p, phaseOf s.seq = some p :=
  Option.isSome_iff_exists.mp ((phaseOf_isSome_iff s.seq).trans hl)

theorem pend_of_phaseOf {s : State} {p : Phase} (h : phaseOf s.seq = some p) : pend s = phasePend s p := by
  simp [pend, h]

theorem pend_of_seq {s : State} {q : BitVec 5} {p : Phase} (hp : phaseOf q = some p) (hq : s.seq = q) :
    pend s = phasePend s p :=
  pend_of_phaseOf (hq ▸ hp)

/-- At most PEND_MAX bytes are pending, and only HDR0 has so many. -/
theorem phasePend_length (s : State) (p : Phase) :
    (phasePend s p).length ≤ Config.pendMax ∧ ((phasePend s p).length = Config.pendMax ↔ p = .hdr 0) := by
  cases p with
  | hdr k =>
    simp [phasePend, hdr, Config.pendMax]
    omega
  | ck j =>
    simp [phasePend, hex4, Config.pendMax]
    omega
  | _ => simp [phasePend, hex4, Config.pendMax]

theorem busy_iff_pend_ne_nil {s : State} (hl : seqLegal s = true) : busy s = true ↔ pend s ≠ [] := by
  cases hb : busy s with
  | true => obtain ⟨b, q, -, -, -, hpend⟩ := busy_unfolds hl hb; simp [hpend]
  | false => simp [pend_of_drained hb]

/-! ### The flags and STATUS as numbers -/

theorem openF_iff (s : State) : openF s = true ↔ 0x01 ≤ s.seq.toNat ∧ s.seq.toNat ≤ 0x0F := by
  simp [openF]

theorem busy_iff (s : State) : busy s = true ↔ s.seq ≠ seqIdle ∧ s.seq ≠ seqOpenw := by
  simp [busy]

theorem toNat_append_eq_mul_add {m n : Nat} (x : BitVec m) (y : BitVec n) :
    (x ++ y).toNat = x.toNat * 2 ^ n + y.toNat := by
  rw [BitVec.toNat_append, ← Nat.shiftLeft_add_eq_or_of_lt y.isLt, Nat.shiftLeft_eq]

theorem statusReg_toNat (s : State) :
    (statusReg s).toNat = (openF s).toNat + 2 * (busy s).toNat + 4 * s.err.toNat + 16 * s.cause.toNat +
      256 * s.seq.toNat := by
  simp only [statusReg, toNat_append_eq_mul_add, BitVec.toNat_ofBool, BitVec.toNat_ofNat]
  omega

/-! ### The accumulator -/

/-- `AccAdd` stays in 0..65534 (R70). -/
theorem accAdd_le {a : Sum16} (b : Byte) (ha : a.toNat ≤ 65534) : (accAdd a b).toNat ≤ 65534 := by
  have hb := b.isLt
  simp only [accAdd, Config.ckMod]
  split
  all_goals
    rw [BitVec.toNat_ofNat]
    omega

theorem causeCode_range (c : Cause) : 1 ≤ (causeCode c).toNat ∧ (causeCode c).toNat ≤ 4 := by
  cases c <;> decide

end Sys2Proof.Machine

namespace Sys2Proof.Safety

open Sys2Proof.Machine

/-! ### The invariants of R28, operation by operation -/

/-- R28 reads `seq`, `acc`, `err` and `cause` only. -/
theorem StateInv.congr {s t : State} (h : StateInv s) (hq : t.seq = s.seq) (ha : t.acc = s.acc)
    (he : t.err = s.err) (hc : t.cause = s.cause) : StateInv t where
  seqUsed := hq ▸ h.seqUsed
  accRange := ha ▸ h.accRange
  noErrCause := fun e => hc ▸ h.noErrCause (he ▸ e)
  errCause := fun e => hc ▸ h.errCause (he ▸ e)
  errDrained := fun e => (busy_congr hq).trans (h.errDrained (he ▸ e))

theorem StateInv.seqLegal {s : State} (h : StateInv s) : seqLegal s = true :=
  decide_eq_true h.seqUsed

theorem StateInv.causeLegal {s : State} (h : StateInv s) : causeLegal s = true := by
  cases he : s.err with
  | false => simp [Machine.causeLegal, h.noErrCause he]
  | true => exact decide_eq_true (h.errCause he).2

theorem StateInv.err_of_busy {s : State} (h : StateInv s) (hb : busy s = true) : s.err = false := by
  cases he : s.err with
  | false => rfl
  | true => simp [h.errDrained he] at hb

theorem StateInv.tick {s : State} (h : StateInv s) : StateInv (tick s) :=
  h.congr (tick_seq s) (tick_acc s) (tick_err s) (tick_cause s)

theorem StateInv.popWord {s : State} (h : StateInv s) : StateInv (popWord s) :=
  h.congr rfl rfl rfl rfl

/-- While `err` = 0 the invariants are kept by whatever keeps `err` and `cause`, goes to a used `seq` and leaves `acc` in
its range: the emission of a byte, and every queueing of bytes. -/
theorem StateInv.of_noErr {s t : State} (h : StateInv s) (he : s.err = false) (hte : t.err = s.err)
    (htc : t.cause = s.cause) (hq : t.seq.toNat ≤ 0x15) (ha : t.acc.toNat ≤ 65534) : StateInv t := by
  have hterr : t.err = false := hte.trans he
  exact ⟨hq, ha, fun _ => htc.trans (h.noErrCause he), by simp [hterr], by simp [hterr]⟩

theorem StateInv.emitStep {s : State} (h : StateInv s) (hb : busy s = true) : StateInv (emitStep s) := by
  obtain ⟨b, q, -, -, hq, hemit, -⟩ := emitStep_cases h.seqLegal hb
  rw [hemit]
  exact h.of_noErr (h.err_of_busy hb) rfl rfl hq h.accRange

theorem StateInv.cmdError {s : State} (h : StateInv s) (hb : busy s = false) (c : Cause) :
    StateInv (cmdError c s) where
  seqUsed := h.seqUsed
  accRange := h.accRange
  noErrCause := nofun
  errCause := fun _ => causeCode_range c
  errDrained := fun _ => hb

/-- Registers at their reset values meet the invariants. -/
theorem JustReset.stateInv {s : State} (h : JustReset s) : StateInv s := by
  obtain ⟨hq, -, -, ha, he, hc⟩ := h
  exact ⟨by simp [hq], by simp [ha], fun _ => hc, by simp [he], by simp [he]⟩

theorem justReset_resetBlock (s : State) : JustReset (resetBlock s) := ⟨rfl, rfl, rfl, rfl, rfl, rfl⟩

theorem stateInv_clearError (s : State) : StateInv (clearError s) := ⟨by simp, by simp, fun _ => rfl, nofun, nofun⟩

theorem StateInv.of_acceptEffect {s t : State} (h : StateInv s) (hb : busy s = false) (heff : AcceptEffect s t) :
    StateInv t := by
  cases heff with
  | discarded _ => exact h
  | rejected c _ => exact h.cmdError hb c
  | opened sel he _ => exact h.of_noErr he rfl rfl (by simp) (accAdd_le sel (by decide))
  | queuedOne b he _ => exact h.of_noErr he rfl rfl (by simp) (accAdd_le b h.accRange)
  | queuedTwo m c he _ => exact h.of_noErr he rfl rfl (by simp) (accAdd_le c (accAdd_le m h.accRange))
  | closed he _ => exact h.of_noErr he rfl rfl (by simp) (accAdd_le etx h.accRange)
  | cleared => exact stateInv_clearError s

theorem StateInv.step {s t : State} (h : StateInv s) (hstep : step s = .next t) : StateInv t := by
  obtain ⟨-, rfl⟩ | ⟨-, -, -, hrest⟩ := step_effect hstep
  · exact (justReset_resetBlock s).stateInv.tick
  · obtain ⟨hb, -, rfl⟩ | ⟨-, -, rfl⟩ | ⟨-, -, rfl⟩ | ⟨hb, heff⟩ := hrest
    · exact (h.emitStep hb).tick
    · exact h.tick
    · exact h.tick
    · exact h.popWord.tick.of_acceptEffect (by simpa using hb) heff

/-! ### Runs -/

/-- Said of every core, whose state type is its own, because `run` is `core.run` on the type `State`. -/
theorem coreRun_succ_of_step {M : Host.Core} {s t : M.State} (n : Nat) (h : M.step s = .next t) :
    M.run (n + 1) s = M.run n t := by
  simp only [Host.Core.run, h]

theorem run_succ_of_step {s t : State} (n : Nat) (h : step s = .next t) : run (n + 1) s = run n t :=
  coreRun_succ_of_step (M := core) n h

/-- What holds of a state and lets every step answer and keep it makes every run answer and keep it. -/
theorem run_keeps {P : State → Prop} (hP : ∀ s, P s → ∃ t, step s = .next t ∧ P t) (n : Nat) :
    ∀ s, P s → ∃ t, run n s = .next t ∧ P t := by
  induction n with
  | zero => exact fun s hs => ⟨s, rfl, hs⟩
  | succ n ih =>
    intro s hs
    obtain ⟨u, hu, hPu⟩ := hP s hs
    rw [run_succ_of_step n hu]
    exact ih u hPu

/-- No run from reset registers stops, and it answers a state that meets the invariants. -/
theorem JustReset.run_stateInv {s : State} (h : JustReset s) (n : Nat) : ∃ t, run n s = .next t ∧ StateInv t := by
  refine run_keeps (fun u hu => ?_) n s h.stateInv
  obtain ⟨t, ht⟩ := step_answers hu.seqLegal hu.causeLegal
  exact ⟨t, ht, hu.step ht⟩

theorem JustReset.stateInv_of_run {s t : State} {n : Nat} (h : JustReset s) (hrun : run n s = .next t) :
    StateInv t := by
  obtain ⟨u, hu, hinv⟩ := h.run_stateInv n
  cases hrun.symm.trans hu
  exact hinv

end Sys2Proof.Safety

namespace Sys2Proof.Proofs

open Sys2Proof.Machine Sys2Proof.Safety

/-- Settles O46: each effect of a step, as `step_effect` lists them, keeps R28. -/
theorem stepKeepsInvariants : Obligations.StepKeepsInvariants := fun _ _ h hstep => h.step hstep

/-- Settles O22: the gate and the step fault before they look at anything else, and R28 excludes the encodings. -/
theorem unusedSeqFaults : Obligations.UnusedSeqFaults := by
  unfold Obligations.UnusedSeqFaults
  refine ⟨fun s hq => ?_, fun n s t h hrun => (h.stateInv_of_run hrun).seqUsed⟩
  have hl : seqLegal s = false := decide_eq_false (by omega)
  refine ⟨fun hr => step_unusedSeq hr hl, fun i => ?_, fun w => ?_⟩
  · obtain ⟨act, h⟩ := exec_eq_acceptGate i
    rw [h, acceptGate_unusedSeq act hl]
  · obtain ⟨act, h⟩ := acceptCommand_eq_acceptGate w
    rw [h, acceptGate_unusedSeq act hl]

/-- Settles O24: each encoding names its phase, and the bytes and their number are the phase's. -/
theorem pendingBytes : Obligations.PendingBytes := by
  unfold Obligations.PendingBytes
  refine ⟨fun s => ⟨?idleOpenw, ?hdr, ?selbP1, pend_of_seq (p := .p2a) rfl, pend_of_seq (p := .p2b) rfl,
    pend_of_seq (p := .tetx) rfl, ?ck, pend_of_seq (p := .teot) rfl⟩, fun s hq => ?counts⟩
  case idleOpenw =>
    rintro (h | h)
    · exact pend_of_drained (busy_of_idle h)
    · exact pend_of_drained (busy_of_openw h)
  case hdr => exact fun k hk h => pend_of_seq (phaseOf_hdr ⟨k, by omega⟩) h
  case selbP1 =>
    rintro (h | h)
    · exact pend_of_seq (p := .selb) rfl h
    · exact pend_of_seq (p := .p1) rfl h
  case ck => exact fun j hj h => pend_of_seq (phaseOf_ck ⟨j, by omega⟩) h
  case counts =>
    have hl : seqLegal s = true := decide_eq_true hq
    obtain ⟨p, hp⟩ := exists_phaseOf hl
    obtain ⟨hmax, hmaxIff⟩ := phasePend_length s p
    rw [← pend_of_phaseOf hp] at hmax hmaxIff
    refine ⟨busy_iff_pend_ne_nil hl, ?_, ?_⟩
    · exact hmax
    · rw [hmaxIff, ← phaseOf_eq_hdr0_iff, hp, Option.some_inj]

/-- Settles O25: `tx_data` is the head of `pend` while busy, and the step's log follows `step_txlog`. -/
theorem outputChannel : Obligations.OutputChannel := by
  unfold Obligations.OutputChannel
  intro s hl
  exact ⟨rfl, pend_head_of_busy hl, txData_of_drained, fun _ => step_txlog⟩

/-- Settles O30, reading the concatenation of the fields as a sum. -/
theorem statusLayout : Obligations.StatusLayout := by
  unfold Obligations.StatusLayout
  exact ⟨fun s => ⟨rfl, statusReg_toNat s, openF_iff s, busy_iff s⟩, by decide⟩

/-- Settles O31: the range is R28's, along every run from reset. -/
theorem accRegister : Obligations.AccRegister := by
  unfold Obligations.AccRegister
  exact ⟨fun _ => rfl, rfl, fun n s t h hrun => (h.stateInv_of_run hrun).accRange⟩

/-- Settles O47: no step from a state that meets R28 stops, and it keeps R28. -/
theorem reachableStatesMeetInvariants : Obligations.ReachableStatesMeetInvariants := by
  unfold Obligations.ReachableStatesMeetInvariants
  intro n s h
  obtain ⟨t, hrun, hseq, hacc, hnoErr, hcause, hdrained⟩ := h.run_stateInv n
  exact ⟨t, hrun, hseq, hacc, hnoErr, hcause, hdrained⟩

/-- Settles O48: a reset step keeps the log, and any other adds at most `tx_data`. -/
theorem logOnlyGrows : Obligations.LogOnlyGrows := by
  unfold Obligations.LogOnlyGrows
  intro s t h
  cases hr : s.pins.rst with
  | true =>
    cases h.symm.trans (step_reset hr)
    exact ⟨[], by simp, by simp⟩
  | false =>
    have hlog := step_txlog hr h
    split at hlog
    · exact ⟨[txData s], by simp, hlog⟩
    · exact ⟨[], by simp, by simpa using hlog⟩

/-- Settles O1: the listed values hold of `State.reset` by computation, and a reset step keeps the log. -/
theorem resetValues : Obligations.ResetValues := by
  unfold Obligations.ResetValues
  exact ⟨rfl, rfl, rfl, rfl, rfl, rfl, rfl, by decide, rfl, rfl, rfl, fun s hr => ⟨_, step_reset hr, by simp⟩⟩

/-- Settles O7: the acceptance of a word takes it off the channel, and no other step touches the host's words. -/
theorem commandChannel : Obligations.CommandChannel := by
  unfold Obligations.CommandChannel
  refine fun s => ⟨rfl, rfl, fun hr hl hc => ⟨fun w ho hready => ?accepted, fun hwait => ?waits⟩⟩
  case accepted =>
    have hb : busy s = false := by simpa [cmdReady] using hready
    obtain ⟨t, ht, heff⟩ := step_accept_effect hr hc hb ho
    exact ⟨step_accept hr hc hb ho, t, ht, by simpa using heff.cmdq_eq⟩
  case waits =>
    cases hb : busy s with
    | true =>
      refine ⟨_, step_busy hr hl hc hb, ?_⟩
      cases s.pins.txReady <;> simp
    | false =>
      have ho : offered s = none := by simpa [cmdReady, hb] using hwait
      exact ⟨_, step_noWord hr hc hb ho, by simp⟩

/-- Settles O45: the registers of `State.reset` are at their reset values. -/
theorem resetMeetsInvariants : Obligations.ResetMeetsInvariants :=
  JustReset.stateInv ⟨rfl, rfl, rfl, rfl, rfl, rfl⟩

end Sys2Proof.Proofs

/-! Proofs of the statements of 20_memory.md: the order of the bytes on the wire, and its independence of timing. -/

namespace Sys2Proof.Machine

/-! ### Emission touches the log and `seq` only (R65) -/

@[simp] theorem emitStep_hold0 (s : State) : (emitStep s).hold0 = s.hold0 := by unfold emitStep; split <;> rfl
@[simp] theorem emitStep_hold1 (s : State) : (emitStep s).hold1 = s.hold1 := by unfold emitStep; split <;> rfl
@[simp] theorem emitStep_acc (s : State) : (emitStep s).acc = s.acc := by unfold emitStep; split <;> rfl
@[simp] theorem emitStep_err (s : State) : (emitStep s).err = s.err := by unfold emitStep; split <;> rfl
@[simp] theorem emitStep_cause (s : State) : (emitStep s).cause = s.cause := by unfold emitStep; split <;> rfl
@[simp] theorem emitStep_pins (s : State) : (emitStep s).pins = s.pins := by unfold emitStep; split <;> rfl
@[simp] theorem emitStep_script (s : State) : (emitStep s).script = s.script := by unfold emitStep; split <;> rfl

/-- An emission moves one byte from the pending bytes to the log. -/
theorem emitStep_stream {s : State} (hl : seqLegal s = true) (hb : busy s = true) :
    (emitStep s).txlog ++ pend (emitStep s) = s.txlog ++ pend s := by
  obtain ⟨b, q, -, -, -, hemit, hpend⟩ := emitStep_cases hl hb
  rw [hpend, hemit]
  simp

/-- A busy step without reset is an emission or a wait. -/
theorem step_of_busy {s t : State} (hr : s.pins.rst = false) (hb : busy s = true) (h : step s = .next t) :
    seqLegal s = true ∧ (t = tick (emitStep s) ∨ t = tick s) := by
  obtain ⟨hreset, -⟩ | ⟨-, hl, -, hrest⟩ := step_effect h
  · simp [hr] at hreset
  · obtain ⟨-, -, ht⟩ | ⟨-, -, ht⟩ | ⟨hd, -⟩ | ⟨hd, -⟩ := hrest
    · exact ⟨hl, .inl ht⟩
    · exact ⟨hl, .inr ht⟩
    · simp [hb] at hd
    · simp [hb] at hd

/-- A step that changes the host's words found the block drained and was the acceptance of the oldest word. -/
theorem step_of_cmdq_ne {s t : State} (h : step s = .next t) (hq : t.cmdq ≠ s.cmdq) :
    busy s = false ∧ AcceptEffect (tick (popWord s)) t := by
  obtain ⟨-, rfl⟩ | ⟨-, -, -, hrest⟩ := step_effect h
  · simp at hq
  · obtain ⟨-, -, rfl⟩ | ⟨-, -, rfl⟩ | ⟨-, -, rfl⟩ | haccept := hrest
    · simp at hq
    · simp at hq
    · simp at hq
    · exact haccept

/-! ### The input levels: what a word's acceptance does, it does under any levels -/

theorem AcceptEffect.pins_eq {s t : State} (h : AcceptEffect s t) : t.pins = s.pins := by
  cases h <;> rfl

theorem AcceptEffect.script_eq {s t : State} (h : AcceptEffect s t) : t.script = s.script := by
  cases h <;> rfl

/-- The state with the input levels forgotten: those of reset, for ever. -/
def untimed (s : State) : State := { s with pins := State.reset.pins, script := State.reset.script }

@[simp] theorem untimed_seq (s : State) : (untimed s).seq = s.seq := rfl
@[simp] theorem untimed_txlog (s : State) : (untimed s).txlog = s.txlog := rfl
@[simp] theorem untimed_cmdq (s : State) : (untimed s).cmdq = s.cmdq := rfl
theorem busy_untimed (s : State) : busy (untimed s) = busy s := rfl
theorem causeLegal_untimed (s : State) : causeLegal (untimed s) = causeLegal s := rfl

@[simp] theorem untimed_tick (s : State) : untimed (tick s) = untimed s := by
  rw [tick_eq]; rfl

theorem untimed_popWord (s : State) : untimed (popWord s) = popWord (untimed s) := rfl

/-- An action on the block that neither reads nor writes the input levels. -/
def IgnoresTiming (act : State → State) : Prop := ∀ s, act (untimed s) = untimed (act s)

theorem IgnoresTiming.unlessError {act : State → State} (h : IgnoresTiming act) : IgnoresTiming (unlessError act) := by
  intro s
  simp only [Machine.unlessError, h s, apply_ite untimed]
  rfl

theorem IgnoresTiming.needOpen {act : State → State} (h : IgnoresTiming act) : IgnoresTiming (needOpen act) := by
  intro s
  simp only [Machine.needOpen, h s, apply_ite untimed]
  rfl

theorem IgnoresTiming.needIdle {act : State → State} (h : IgnoresTiming act) : IgnoresTiming (needIdle act) := by
  intro s
  simp only [Machine.needIdle, h s, apply_ite untimed]
  rfl

theorem ignoresTiming_cmdError (c : Cause) : IgnoresTiming (cmdError c) := fun _ => rfl
theorem ignoresTiming_queueHeader (sel : Byte) : IgnoresTiming (queueHeader sel) := fun _ => rfl
theorem ignoresTiming_queueOne (b : Byte) : IgnoresTiming (queueOne b) := fun _ => rfl
theorem ignoresTiming_queueTrailer : IgnoresTiming queueTrailer := fun _ => rfl
theorem ignoresTiming_clearError : IgnoresTiming clearError := fun _ => rfl

theorem ignoresTiming_queueEsc (cp : CodePoint) : IgnoresTiming (queueEsc cp) := by
  intro s
  obtain ⟨m, c, h⟩ | ⟨b, h⟩ := esc_cases cp
  · simp only [queueEsc, h]; rfl
  · simp only [queueEsc, h]; rfl

/-- The acceptance of a word is one action behind the gate, the same in every state, and it ignores the input levels. -/
theorem acceptCommand_ignoresTiming (w : Word) :
    ∃ act, (∀ s, acceptCommand w s = acceptGate act s) ∧ IgnoresTiming act := by
  simp only [acceptCommand]
  cases decode w with
  | illegalOp => exact ⟨_, fun _ => rfl, (ignoresTiming_cmdError _).unlessError⟩
  | rsvdBits => exact ⟨_, fun _ => rfl, (ignoresTiming_cmdError _).unlessError⟩
  | instr i =>
    cases i with
    | openPacket sel => exact ⟨_, fun _ => rfl, (ignoresTiming_queueHeader sel).needIdle.unlessError⟩
    | byte b => exact ⟨_, fun _ => rfl, (ignoresTiming_queueOne b).needOpen.unlessError⟩
    | char cp => exact ⟨_, fun _ => rfl, (ignoresTiming_queueEsc cp).needOpen.unlessError⟩
    | close => exact ⟨_, fun _ => rfl, ignoresTiming_queueTrailer.needOpen.unlessError⟩
    | clrErr => exact ⟨_, fun _ => rfl, ignoresTiming_clearError⟩

theorem acceptCommand_untimed {w : Word} {s t : State} (h : acceptCommand w s = .next t) :
    acceptCommand w (untimed s) = .next (untimed t) := by
  obtain ⟨act, hgate, hact⟩ := acceptCommand_ignoresTiming w
  rw [hgate] at h ⊢
  obtain ⟨hl, hc, ⟨hb, rfl⟩ | ⟨hb, rfl⟩⟩ := acceptGate_cases h
  · exact acceptGate_busy act hl hc hb
  · rw [← hact s]
    exact acceptGate_ready act ((busy_untimed s).trans hb) ((causeLegal_untimed s).trans hc)

/-! ### The settled state: every pending byte sent, the input levels forgotten -/

/-- Where `seq` comes to rest when the pending bytes have left: OPENW while a packet is open, else IDLE (R15, R21). -/
def restSeq (s : State) : BitVec 5 := if openF s then seqOpenw else seqIdle

/-- What the block will be once it has drained, whatever the timing. -/
def settled (s : State) : State := { untimed s with txlog := s.txlog ++ pend s, seq := restSeq s }

@[simp] theorem settled_acc (s : State) : (settled s).acc = s.acc := rfl
@[simp] theorem settled_err (s : State) : (settled s).err = s.err := rfl
@[simp] theorem settled_cause (s : State) : (settled s).cause = s.cause := rfl
@[simp] theorem settled_txlog (s : State) : (settled s).txlog = s.txlog ++ pend s := rfl
@[simp] theorem settled_cmdq (s : State) : (settled s).cmdq = s.cmdq := rfl

theorem settled_untimed (s : State) : settled (untimed s) = settled s := rfl

@[simp] theorem settled_tick (s : State) : settled (tick s) = settled s := by
  rw [← settled_untimed, untimed_tick, settled_untimed]

theorem restSeq_of_drained {s : State} (hb : busy s = false) : restSeq s = s.seq := by
  obtain h | h := drained_cases hb
  · simp [restSeq, openF, h]
  · simp [restSeq, openF, h]

theorem settled_of_drained {s : State} (hb : busy s = false) : settled s = untimed s := by
  rw [settled, restSeq_of_drained hb, pend_of_drained hb, List.append_nil]
  rfl

/-- R15's table leaves an open packet open and a closed one closed. -/
theorem nextSeq_open_iff (q : BitVec 5) : ∀ r ∈ (phaseOf q).bind phaseAfter,
    ((0x01 ≤ r.toNat ∧ r.toNat ≤ 0x0F) ↔ (0x01 ≤ q.toNat ∧ q.toNat ≤ 0x0F)) := by
  revert q; decide

theorem openF_emitStep {s : State} (hl : seqLegal s = true) (hb : busy s = true) : openF (emitStep s) = openF s := by
  obtain ⟨b, q, -, hnext, -, hemit, -⟩ := emitStep_cases hl hb
  rw [hemit]
  exact decide_eq_decide.mpr (nextSeq_open_iff s.seq q hnext)

/-- An emission does not change what the block will settle to. -/
theorem settled_emitStep {s : State} (hl : seqLegal s = true) (hb : busy s = true) :
    settled (emitStep s) = settled s := by
  simp [settled, untimed, restSeq, openF_emitStep hl hb, emitStep_stream hl hb]

/-- What a settled block will settle to after it has accepted its oldest word. -/
def acceptHead (s : State) : State :=
  match s.cmdq with
  | [] => s
  | w :: _ =>
    match acceptCommand w (popWord s) with
    | .next t => settled t
    | .fault _ => s
    | .refused _ => s

theorem acceptHead_of_accept {s t : State} {w : Word} (hw : s.cmdq.head? = some w)
    (h : acceptCommand w (popWord s) = .next t) : acceptHead s = settled t := by
  obtain ⟨rest, hq⟩ := List.head?_eq_some_iff.mp hw
  simp [acceptHead, hq, h]

theorem offered_eq_head {s : State} {w : Word} (h : offered s = some w) : s.cmdq.head? = some w := by
  unfold offered at h
  split at h
  · exact h
  · cases h

/-- A step without reset keeps the host's words and what the block will settle to, or it takes the oldest word and what
the block will settle to is `acceptHead` of what it was. -/
theorem step_settled {s t : State} (hr : s.pins.rst = false) (h : step s = .next t) :
    (t.cmdq.length = s.cmdq.length ∧ settled t = settled s) ∨
    (t.cmdq.length + 1 = s.cmdq.length ∧ settled t = acceptHead (settled s)) := by
  obtain ⟨hreset, -⟩ | ⟨-, hl, hc, hrest⟩ := step_cases h
  · simp [hr] at hreset
  · obtain ⟨hb, -, rfl⟩ | ⟨-, -, rfl⟩ | ⟨-, -, rfl⟩ | ⟨w, hb, ho, hacc⟩ := hrest
    · exact .inl ⟨by simp, by simp [settled_emitStep hl hb]⟩
    · exact .inl ⟨by simp, by simp⟩
    · exact .inl ⟨by simp, by simp⟩
    · have hhead := offered_eq_head ho
      obtain ⟨u, hu, heff⟩ := step_accept_effect hr hc hb ho
      cases h.symm.trans hu
      refine .inr ⟨?_, ?_⟩
      · obtain ⟨rest, hq⟩ := List.head?_eq_some_iff.mp hhead
        simp [heff.cmdq_eq, hq]
      · have hsame : acceptCommand w (popWord (untimed s)) = .next (untimed t) := by
          simpa [untimed_popWord] using acceptCommand_untimed hacc
        rw [settled_of_drained hb, acceptHead_of_accept (s := untimed s) hhead hsame, settled_untimed]

end Sys2Proof.Machine

namespace Sys2Proof.Safety

open Sys2Proof.Machine

/-! ### Runs without reset -/

theorem NoReset.congr {s t : State} (h : NoReset s) (hp : t.pins = s.pins) (hs : t.script = s.script) : NoReset t := by
  unfold NoReset
  rw [hp, hs]
  exact h

theorem NoReset.tick {s : State} (h : NoReset s) : NoReset (tick s) := by
  obtain ⟨hr, hscript⟩ := h
  cases hs : s.script with
  | nil => rw [tick_of_nil hs]; exact ⟨hr, hscript⟩
  | cons p rest =>
    rw [hs] at hscript
    rw [tick_of_cons hs]
    exact List.forall_mem_cons.mp hscript

theorem NoReset.step {s t : State} (h : NoReset s) (hstep : step s = .next t) : NoReset t := by
  obtain ⟨hreset, -⟩ | ⟨-, -, -, hrest⟩ := step_effect hstep
  · simp [h.1] at hreset
  · obtain ⟨-, -, rfl⟩ | ⟨-, -, rfl⟩ | ⟨-, -, rfl⟩ | ⟨-, heff⟩ := hrest
    · exact (h.congr (emitStep_pins s) (emitStep_script s)).tick
    · exact h.tick
    · exact h.tick
    · have hpop : NoReset (popWord s) := h.congr rfl rfl
      exact hpop.tick.congr heff.pins_eq heff.script_eq

/-- A run that answers takes its first step and runs on from there; said of every core, as `coreRun_succ_of_step` is. -/
theorem coreRun_succ_cases {M : Host.Core} {s t : M.State} {n : Nat} (h : M.run (n + 1) s = .next t) :
    ∃ u, M.step s = .next u ∧ M.run n u = .next t := by
  simp only [Host.Core.run] at h
  cases hs : M.step s with
  | next u => exact ⟨u, rfl, by simpa only [hs] using h⟩
  | fault r => simp [hs] at h
  | refused r => simp [hs] at h

theorem run_succ_cases {s t : State} {n : Nat} (h : run (n + 1) s = .next t) :
    ∃ u, step s = .next u ∧ run n u = .next t :=
  coreRun_succ_cases (M := core) h

/-- A run without reset settles to what its start settles to after as many acceptances as words are gone. -/
theorem run_settled {n : Nat} : ∀ {s t : State}, NoReset s → run n s = .next t →
    ∃ k, t.cmdq.length + k = s.cmdq.length ∧ settled t = acceptHead^[k] (settled s) := by
  induction n with
  | zero =>
    intro s t _ hrun
    cases hrun
    exact ⟨0, rfl, rfl⟩
  | succ n ih =>
    intro s t hnr hrun
    obtain ⟨u, hu, hrun'⟩ := run_succ_cases hrun
    obtain ⟨k, hlen, hset⟩ := ih (hnr.step hu) hrun'
    obtain ⟨hkeep, hsu⟩ | ⟨htake, hsu⟩ := step_settled hnr.1 hu
    · exact ⟨k, hlen.trans hkeep, hsu ▸ hset⟩
    · refine ⟨k + 1, by omega, ?_⟩
      rw [hset, hsu, Function.iterate_succ_apply]

theorem SameButTiming.settled_eq {s t : State} (h : SameButTiming s t) : settled s = settled t := by
  rw [h]
  rfl

/-- Two runs without reset, from states that differ in timing only, settle to the same state if equally many words are
left. -/
theorem settled_eq_of_runs {s₁ s₂ t₁ t₂ : State} {n₁ n₂ : Nat} (h : SameButTiming s₁ s₂) (hnr₁ : NoReset s₁)
    (hnr₂ : NoReset s₂) (hrun₁ : run n₁ s₁ = .next t₁) (hrun₂ : run n₂ s₂ = .next t₂)
    (hlen : t₁.cmdq.length = t₂.cmdq.length) : settled t₁ = settled t₂ := by
  obtain ⟨k₁, hk₁, hset₁⟩ := run_settled hnr₁ hrun₁
  obtain ⟨k₂, hk₂, hset₂⟩ := run_settled hnr₂ hrun₂
  have hstart := h.settled_eq
  have hwords : s₁.cmdq.length = s₂.cmdq.length := congrArg (fun s => s.cmdq.length) hstart
  have hk : k₁ = k₂ := by omega
  rw [hset₁, hset₂, hk, hstart]

end Sys2Proof.Safety

namespace Sys2Proof.Proofs

open Sys2Proof.Machine Sys2Proof.Safety

/-- Settles O27: a busy step emits or waits (`step_of_busy`), and only a drained block takes a word
(`step_of_cmdq_ne`). -/
theorem streamIsOrdered : Obligations.StreamIsOrdered := by
  unfold Obligations.StreamIsOrdered
  refine ⟨fun s t hr hb h => ?busy, fun s t h hq => ?accepts⟩
  case busy =>
    obtain ⟨hl, rfl | rfl⟩ := step_of_busy hr hb h
    · simp [emitStep_stream hl hb]
    · simp
  case accepts =>
    obtain ⟨hb, heff⟩ := step_of_cmdq_ne h hq
    exact ⟨pend_of_drained hb, by simp [heff.txlog_eq], by simp [heff.cmdq_eq]⟩

/-- Settles O44: both runs settle to one state, which holds what the statement compares; a drained state is its own
settled state. -/
theorem timingDoesNotChangeBytes : Obligations.TimingDoesNotChangeBytes := by
  unfold Obligations.TimingDoesNotChangeBytes
  intro s₁ s₂ t₁ t₂ n₁ n₂ h hnr₁ hnr₂ hrun₁ hrun₂ hlen
  have hset := settled_eq_of_runs h hnr₁ hnr₂ hrun₁ hrun₂ hlen
  refine ⟨by simpa using congrArg State.txlog hset, by simpa using congrArg State.acc hset,
    by simpa using congrArg State.err hset, by simpa using congrArg State.cause hset, fun hbusy hb₁ => ?drained⟩
  case drained =>
    rw [settled_of_drained hb₁, settled_of_drained (hbusy ▸ hb₁)] at hset
    exact ⟨by simpa using congrArg State.seq hset, by simpa using congrArg State.txlog hset⟩

end Sys2Proof.Proofs

/-! Proofs of the statements of 30_encoding.md: words and commands, packets, and the assembler. -/

namespace Sys2Proof

/-! ### The decoder (R49) -/

theorem decode_of_operands {w : Word} {i : Instr} (h : operands w = some i) :
    decode w = if reservedClear w then .instr i else .rsvdBits := by
  simp [decode, h]

theorem decode_of_undefined {w : Word} (h : operands w = none) : decode w = .illegalOp := by
  simp [decode, h]

/-- The verdict on a word of a format whose reserved bits are the `m` bits from bit `n` on. -/
theorem decode_of_format {w : Word} {i : Instr} {n m : Nat} (h : operands w = some i)
    (hr : reservedClear w = (w.extractLsb' n m == 0#m)) :
    decode w = if w.toNat / 2 ^ n % 2 ^ m ≠ 0 then .rsvdBits else .instr i := by
  simp [decode_of_operands h, hr, extract_eq_zero_iff]

theorem decode_eq_instr_iff {w : Word} {i : Instr} :
    decode w = .instr i ↔ operands w = some i ∧ reservedClear w = true := by
  cases h : operands w with
  | none => simp [decode_of_undefined h]
  | some j => cases hr : reservedClear w <;> simp [decode_of_operands h, hr]

theorem operands_of_undefined {w : Word} (h : (opField w).toNat = 0 ∨ 6 ≤ (opField w).toNat) : operands w = none := by
  unfold operands
  split
  case h_6 => rfl
  all_goals omega

/-! ### A word is its opcode, reserved zeros and an operand (R43, R45 to R47) -/

theorem low_toNat (w : Word) (n : Nat) : (w.extractLsb' 0 n).toNat = w.toNat % 2 ^ n := by
  rw [extract_toNat, Nat.pow_zero, Nat.div_one]

theorem wordOf_setWidth_toNat {n : Nat} (op : BitVec 4) (x : BitVec n) (hn : n ≤ 28) :
    (wordOf op (x.setWidth 28)).toNat = op.toNat * 2 ^ 28 + x.toNat := by
  rw [wordOf_toNat, BitVec.toNat_setWidth_of_le hn]

theorem low_wordOf {n : Nat} (op : BitVec 4) (x : BitVec n) (hn : n ≤ 28) :
    (wordOf op (x.setWidth 28)).extractLsb' 0 n = x := by
  have hdvd : 2 ^ n ∣ op.toNat * 2 ^ 28 := (pow_dvd_pow 2 hn).mul_left _
  apply BitVec.eq_of_toNat_eq
  rw [low_toNat, wordOf_setWidth_toNat op x hn, Nat.add_mod, Nat.mod_eq_zero_of_dvd hdvd, Nat.zero_add, Nat.mod_mod,
    Nat.mod_eq_of_lt x.isLt]

theorem wordOf_fields {n m : Nat} {w : Word} {op : BitVec 4} (hop : (opField w).toNat = op.toNat) (hnm : n + m = 28)
    (hr : w.extractLsb' n m = 0#m) : wordOf op ((w.extractLsb' 0 n).setWidth 28) = w := by
  have hzero : w.toNat / 2 ^ n % 2 ^ m = 0 := by rw [← extract_toNat, hr, BitVec.toNat_ofNat, Nat.zero_mod]
  have hlow : w.toNat % 2 ^ 28 = w.toNat % 2 ^ n := by
    rw [← hnm, Nat.pow_add, Nat.mod_mul, hzero, Nat.mul_zero, Nat.add_zero]
  rw [opField_toNat] at hop
  apply BitVec.eq_of_toNat_eq
  rw [wordOf_setWidth_toNat op _ (by omega), low_toNat, ← hop, ← hlow, Nat.div_add_mod']

theorem wordOf_zero {w : Word} {op : BitVec 4} (hop : (opField w).toNat = op.toNat) (hr : w.extractLsb' 0 28 = 0#28) :
    wordOf op 0#28 = w := by
  simpa using wordOf_fields hop (Nat.zero_add 28) hr

theorem encode_openPacket_toNat (sel : Byte) : (encode (.openPacket sel)).toNat = 0x10000000 + sel.toNat :=
  wordOf_setWidth_toNat 0x1#4 sel (by decide)

theorem encode_byte_toNat (b : Byte) : (encode (.byte b)).toNat = 0x20000000 + b.toNat :=
  wordOf_setWidth_toNat 0x2#4 b (by decide)

theorem encode_char_toNat (cp : CodePoint) : (encode (.char cp)).toNat = 0x30000000 + cp.toNat :=
  wordOf_setWidth_toNat 0x3#4 cp (by decide)

/-! ### Decode and encode -/

theorem operands_encode (i : Instr) : operands (encode i) = some i := by
  cases i with
  | openPacket sel => simp [operands, encode, low_wordOf]
  | byte b => simp [operands, encode, low_wordOf]
  | char cp => simp [operands, encode, low_wordOf]
  | close => rfl
  | clrErr => rfl

theorem wellFormedWord_encode (i : Instr) : wellFormedWord (encode i) = true := by
  cases i with
  | openPacket sel => exact Laws.Encodes.openPacket sel
  | byte b => exact Laws.Encodes.byte b
  | char cp => exact Laws.Encodes.char cp
  | close => exact Laws.Encodes.close
  | clrErr => exact Laws.Encodes.clrErr

@[simp] theorem decode_encode (i : Instr) : decode (encode i) = .instr i := by
  have hr : reservedClear (encode i) = true := (Bool.and_eq_true_iff.mp (wellFormedWord_encode i)).2
  exact decode_eq_instr_iff.mpr ⟨operands_encode i, hr⟩

theorem encode_of_operands {w : Word} {i : Instr} (h : operands w = some i) (hr : reservedClear w = true) :
    encode i = w := by
  unfold operands at h
  split at h
  case h_6 => cases h
  all_goals
    rename_i hop
    cases h
    simp [reservedClear, hop] at hr
  · exact wordOf_fields hop rfl hr
  · exact wordOf_fields hop rfl hr
  · exact wordOf_fields hop rfl hr
  · exact wordOf_zero hop hr
  · exact wordOf_zero hop hr

end Sys2Proof

namespace Sys2Proof.Proofs

open Sys2Proof.Machine

/-- Settles O5: the operands of a command's word are the command's, and a word is put together from its fields. -/
theorem decodeInvertsEncode : Obligations.DecodeInvertsEncode := by
  unfold Obligations.DecodeInvertsEncode
  refine fun i w => ⟨fun h => ?_, fun h => h ▸ decode_encode i⟩
  obtain ⟨hops, hr⟩ := decode_eq_instr_iff.mp h
  exact (encode_of_operands hops hr).symm

/-- Settles O4: the opcode picks the format, and each field is a quotient and a remainder of the word's number. -/
theorem decodeFollowsBitFields : Obligations.DecodeFollowsBitFields := by
  unfold Obligations.DecodeFollowsBitFields
  intro w
  rw [← opField_toNat]
  refine ⟨fun h => ?_, fun h => ?_, fun h => ?_, fun h => ?_, fun h => ?_,
    fun h => decode_of_undefined (operands_of_undefined h)⟩
  · exact decode_of_format (by simp [operands, h, extract_eq_ofNat]) (by simp [reservedClear, h])
  · exact decode_of_format (by simp [operands, h, extract_eq_ofNat]) (by simp [reservedClear, h])
  · exact decode_of_format (by simp [operands, h, extract_eq_ofNat]) (by simp [reservedClear, h])
  · simpa using decode_of_format (n := 0) (m := 28) (i := .close) (by simp [operands, h]) (by simp [reservedClear, h])
  · simpa using decode_of_format (n := 0) (m := 28) (i := .clrErr) (by simp [operands, h]) (by simp [reservedClear, h])

/-- Settles O3: the decoder, evaluated on the twelve words. -/
theorem decodeSampleWords : Obligations.DecodeSampleWords := by
  unfold Obligations.DecodeSampleWords
  decide

/-- Settles O40: the packet is written in that order; its length is the sum of its parts'. -/
theorem packetStructure : Obligations.PacketStructure := by
  unfold Obligations.PacketStructure
  refine fun sel body => ⟨rfl, ?_⟩
  simp [packet, hdr, hex4]
  omega

end Sys2Proof.Proofs

namespace Sys2Proof.Machine

/-! ### The assembler (R52) -/

theorem assembleWords_of_upper {cs u : List Char} {m : Mnemonic} (hcs : cs.map Char.toUpper = u)
    (hu : (mnemonicTable.find? (fun row => row.1 == u)).map Prod.snd = some m) (os : List AsmOperand) :
    assembleWords cs os = (assembleLine m os).map (fun is => is.map encode) := by
  simp [assembleWords, mnemonicOf, hcs, hu]

theorem char_toNat_lt (c : Char) : c.toNat < 0x110000 := by
  obtain h | ⟨-, h⟩ := c.valid
  · exact Nat.lt_trans h (by decide)
  · exact h

/-- A line that assembles to a command with the operand `v` is one word, the sum of `base` and `v`. -/
theorem exists_word_of_operand {k base v : Nat} {f : BitVec k → Instr} (hf : ∀ x, (encode (f x)).toNat = base + x.toNat)
    (hv : v < 2 ^ k) {ws : Option (List Word)} (hws : ws = some [encode (f (BitVec.ofNat k v))]) :
    ∃ w : Word, ws = some [w] ∧ w.toNat = base + v :=
  ⟨_, hws, by rw [hf, BitVec.toNat_ofNat, Nat.mod_eq_of_lt hv]⟩

/-- What R52 says of a command whose one operand is a byte. -/
theorem assembleWords_byteOperand {cs : List Char} {base : Nat} {f : Byte → Instr}
    (hcs : ∀ o, assembleWords cs [o] = (asmByte o).map (fun b => [encode (f b)]))
    (hf : ∀ b, (encode (f b)).toNat = base + b.toNat) (n : Nat) (c : Char) :
    (n ≤ 0xFF → ∃ w : Word, assembleWords cs [.num n] = some [w] ∧ w.toNat = base + n) ∧
    (0xFF < n → assembleWords cs [.num n] = none) ∧
    (c.toNat ≤ 0x7F → ∃ w : Word, assembleWords cs [.chr c] = some [w] ∧ w.toNat = base + c.toNat) ∧
    (0x7F < c.toNat → assembleWords cs [.chr c] = none) := by
  simp only [hcs]
  refine ⟨fun h => ?_, fun h => ?_, fun h => ?_, fun h => ?_⟩
  · exact exists_word_of_operand hf (by omega) (by simp [asmByte, h])
  · simp [asmByte, Nat.not_le.mpr h]
  · exact exists_word_of_operand hf (by omega) (by simp [asmByte, h])
  · simp [asmByte, Nat.not_le.mpr h]

end Sys2Proof.Machine

namespace Sys2Proof.Proofs

open Sys2Proof.Machine

/-- Settles O56: every letter case of a mnemonic assembles as its capitals do (`assembleWords_of_upper`), and the operand is
added below the opcode (`encode_openPacket_toNat` and its like). -/
theorem assemblerRefusesOutOfRange : Obligations.AssemblerRefusesOutOfRange := by
  unfold Obligations.AssemblerRefusesOutOfRange
  refine fun cs n c => ⟨?byteOperand, fun hcs => ?char, fun hcs => assembleWords_of_upper hcs rfl [],
    fun hcs => assembleWords_of_upper hcs rfl []⟩
  case byteOperand =>
    simp only [List.forall_mem_cons, List.not_mem_nil, false_imp_iff, implies_true, and_true]
    refine ⟨fun hcs => ?_, fun hcs => ?_⟩
    · refine assembleWords_byteOperand (f := .openPacket) (fun o => ?_) encode_openPacket_toNat n c
      simp [assembleWords_of_upper (m := .openCmd) hcs rfl, assembleLine, Function.comp_def]
    · refine assembleWords_byteOperand (f := .byte) (fun o => ?_) encode_byte_toNat n c
      simp [assembleWords_of_upper (m := .byteCmd) hcs rfl, assembleLine, Function.comp_def]
  case char =>
    have hasm (o) : assembleWords cs [o] = (asmCodePoint o).map (fun cp => [encode (.char cp)]) := by
      simp [assembleWords_of_upper (m := .charCmd) hcs rfl, assembleLine, Function.comp_def]
    simp only [hasm]
    refine ⟨fun h => ?_, fun h => ?_, ?_⟩
    · exact exists_word_of_operand encode_char_toNat (by omega) (by simp [asmCodePoint, h])
    · simp [asmCodePoint, Nat.not_le.mpr h]
    · exact exists_word_of_operand encode_char_toNat (Nat.lt_trans (char_toNat_lt c) (by decide)) rfl

end Sys2Proof.Proofs

/-! The packet on the wire (R56 to R58): what a drained block makes of a framed packet's words, and how many steps a prompt
host and transport need for it. -/

namespace Sys2Proof.Machine

/-! ### The accumulator over a list of bytes -/

theorem accAdd_toNat {a : Sum16} (b : Byte) (ha : a.toNat ≤ 65534) : (accAdd a b).toNat = (a.toNat + b.toNat) % 65535 := by
  have hb := b.isLt
  simp only [accAdd, Config.ckMod]
  split
  all_goals
    rw [BitVec.toNat_ofNat]
    omega

theorem foldl_accAdd_toNat (bs : List Byte) : ∀ {a : Sum16}, a.toNat ≤ 65534 →
    (bs.foldl accAdd a).toNat = (a.toNat + (bs.map BitVec.toNat).sum) % 65535 := by
  induction bs with
  | nil =>
    intro a ha
    simp only [List.foldl_nil, List.map_nil, List.sum_nil]
    omega
  | cons b bs ih =>
    intro a ha
    rw [List.foldl_cons, ih (accAdd_le b ha), accAdd_toNat b ha, List.map_cons, List.sum_cons]
    omega

/-- Accumulating the selector, the body and the ETX from STX on gives the checksum (R71). -/
theorem foldl_accAdd_eq_cksum (sel : Byte) (body : List Byte) :
    accAdd (body.foldl accAdd (accAdd 0x0002#16 sel)) etx = cksum (sel :: body) := by
  have hfold := foldl_accAdd_toNat (sel :: body ++ [etx]) (a := 0x0002#16) (by decide)
  simp only [List.cons_append, List.foldl_cons, List.foldl_append, List.foldl_nil] at hfold
  apply BitVec.eq_of_toNat_eq
  rw [hfold, cksum, BitVec.toNat_ofNat]
  simp [Config.ckMod]
  omega

/-! ### What a settled block makes of its oldest word -/

theorem acceptCommand_encode (i : Instr) (s : State) : acceptCommand (encode i) s = exec i s := by
  simp [acceptCommand]

theorem acceptHead_of_gate {s : State} {i : Instr} {ws : List Word} {act : State → State}
    (hw : s.cmdq = encode i :: ws) (hexec : exec i (popWord s) = acceptGate act (popWord s)) (hb : busy s = false)
    (hc : causeLegal s = true) : acceptHead s = settled (act (popWord s)) :=
  acceptHead_of_accept (by rw [hw]; rfl) ((acceptCommand_encode i _).trans (hexec.trans (acceptGate_ready act hb hc)))

/-- OPEN in IDLE without an error acts. -/
theorem acceptHead_of_idle {s : State} {i : Instr} {ws : List Word} {act : State → State} (hq : s.seq = seqIdle)
    (he : s.err = false) (hc : causeLegal s = true) (hw : s.cmdq = encode i :: ws)
    (hexec : exec i (popWord s) = acceptGate (unlessError (needIdle act)) (popWord s)) :
    acceptHead s = settled (act (popWord s)) := by
  rw [acceptHead_of_gate hw hexec (busy_of_idle hq) hc]
  simp [unlessError, needIdle, hq, he]

/-- BYTE, CHAR and CLOSE in OPENW without an error act. -/
theorem acceptHead_of_openw {s : State} {i : Instr} {ws : List Word} {act : State → State} (hq : s.seq = seqOpenw)
    (he : s.err = false) (hc : causeLegal s = true) (hw : s.cmdq = encode i :: ws)
    (hexec : exec i (popWord s) = acceptGate (unlessError (needOpen act)) (popWord s)) :
    acceptHead s = settled (act (popWord s)) := by
  rw [acceptHead_of_gate hw hexec (busy_of_openw hq) hc]
  simp [unlessError, needOpen, hq, he]

/-- A drained block with a packet open and no error: what it has sent, its accumulator and the words left to it. -/
structure InPacket (log : List Byte) (a : Sum16) (ws : List Word) (s : State) : Prop where
  seqOpen : s.seq = seqOpenw
  noErr   : s.err = false
  cause   : causeLegal s = true
  txlog   : s.txlog = log
  acc     : s.acc = a
  cmdq    : s.cmdq = ws

theorem inPacket_open {s : State} {sel : Byte} {ws : List Word} (hq : s.seq = seqIdle) (he : s.err = false)
    (hc : causeLegal s = true) (hw : s.cmdq = encode (.openPacket sel) :: ws) :
    InPacket (s.txlog ++ hdr ++ [sel]) (accAdd 0x0002#16 sel) ws (acceptHead s) := by
  rw [acceptHead_of_idle hq he hc hw rfl]
  exact ⟨rfl, he, hc, by simp [pend, phaseOf, phasePend], rfl, by simp [hw]⟩

theorem InPacket.payload {log : List Byte} {a : Sum16} {ws : List Word} {s : State} {i : Instr}
    (h : InPacket log a (encode i :: ws) s) (hi : isPayload i = true) :
    InPacket (log ++ bodyOf i) ((bodyOf i).foldl accAdd a) ws (acceptHead s) := by
  obtain ⟨hq, he, hc, rfl, rfl, hw⟩ := h
  have hone (b : Byte) : InPacket (s.txlog ++ [b]) (accAdd s.acc b) ws (settled (queueOne b (popWord s))) :=
    ⟨rfl, he, hc, by simp [pend, phaseOf, phasePend], rfl, by simp [hw]⟩
  have htwo (m c : Byte) : InPacket (s.txlog ++ [m, c]) (accAdd (accAdd s.acc m) c) ws
      (settled (queueTwo m c (popWord s))) :=
    ⟨rfl, he, hc, by simp [pend, phaseOf, phasePend], rfl, by simp [hw]⟩
  cases i with
  | byte b =>
    rw [acceptHead_of_openw hq he hc hw rfl]
    exact hone b
  | char cp =>
    rw [acceptHead_of_openw hq he hc hw rfl, bodyOf]
    obtain ⟨m, c, hesc, hqueue⟩ | ⟨b, hesc, hqueue⟩ := queueEsc_cases cp (popWord s)
    · rw [hesc, hqueue]; exact htwo m c
    · rw [hesc, hqueue]; exact hone b
  | openPacket sel => cases hi
  | close => cases hi
  | clrErr => cases hi

theorem InPacket.payloads (cmds : List Instr) : ∀ {log : List Byte} {a : Sum16} {ws : List Word} {s : State},
    InPacket log a (cmds.map encode ++ ws) s → (∀ c ∈ cmds, isPayload c = true) →
    InPacket (log ++ bodyBytes cmds) ((bodyBytes cmds).foldl accAdd a) ws (acceptHead^[cmds.length] s) := by
  induction cmds with
  | nil =>
    intro log a ws s h _
    simpa [bodyBytes] using h
  | cons c cmds ih =>
    intro log a ws s h hpay
    obtain ⟨hc, hcmds⟩ := List.forall_mem_cons.mp hpay
    have hnext := ih (h.payload hc) hcmds
    simpa [bodyBytes] using hnext

/-- After a packet has left: the block in IDLE without an error, its log, its accumulator and the words left to it. -/
structure PacketSent (log : List Byte) (a : Sum16) (ws : List Word) (s : State) : Prop where
  seqIdle : s.seq = seqIdle
  noErr   : s.err = false
  txlog   : s.txlog = log
  acc     : s.acc = a
  cmdq    : s.cmdq = ws

theorem InPacket.close {log : List Byte} {a : Sum16} {ws : List Word} {s : State}
    (h : InPacket log a (encode .close :: ws) s) :
    PacketSent (log ++ [etx] ++ hex4 (accAdd a etx) ++ [eot]) (accAdd a etx) ws (acceptHead s) := by
  obtain ⟨hq, he, hc, rfl, rfl, hw⟩ := h
  rw [acceptHead_of_openw hq he hc hw rfl]
  exact ⟨rfl, he, by simp [pend, phaseOf, phasePend], rfl, by simp [hw]⟩

/-- The words of a framed packet, accepted one after the other by a block in IDLE, send exactly the packet (R56, R67). -/
theorem acceptHead_framed {s : State} {sel : Byte} {cmds : List Instr} {rest : List Word} (hq : s.seq = seqIdle)
    (he : s.err = false) (hc : causeLegal s = true) (hpay : ∀ c ∈ cmds, isPayload c = true)
    (hw : s.cmdq = ([Instr.openPacket sel] ++ cmds ++ [Instr.close]).map encode ++ rest) :
    PacketSent (s.txlog ++ packet sel (bodyBytes cmds)) (cksum (sel :: bodyBytes cmds)) rest
      (acceptHead^[cmds.length + 2] s) := by
  have hopen := inPacket_open (ws := cmds.map encode ++ (encode .close :: rest)) hq he hc (by simpa using hw)
  have hclose := (hopen.payloads cmds hpay).close
  rw [foldl_accAdd_eq_cksum] at hclose
  simpa [packet, Function.iterate_succ_apply', ← Function.iterate_succ_apply] using hclose

end Sys2Proof.Machine

namespace Sys2Proof.Safety

open Sys2Proof.Machine

/-! ### Runs under a prompt host and transport -/

theorem run_add {m n : Nat} : ∀ {s t : State}, run m s = .next t → run (m + n) s = run n t := by
  induction m with
  | zero =>
    intro s t h
    cases h
    rw [Nat.zero_add]
  | succ m ih =>
    intro s t h
    obtain ⟨u, hu, hrun⟩ := run_succ_cases h
    rw [Nat.succ_add, run_succ_of_step _ hu, ih hrun]

theorem Prompt.rst {s : State} (hp : Prompt s) : s.pins.rst = false := by rw [hp.1]

theorem Prompt.untimed_eq {s : State} (hp : Prompt s) : untimed s = s := by
  obtain ⟨hpins, hscript⟩ := hp
  cases s
  cases hpins
  cases hscript
  rfl

theorem prompt_settled (s : State) : Prompt (settled s) := ⟨rfl, rfl⟩

theorem busy_settled (s : State) : busy (settled s) = false := by
  cases h : openF s <;> simp [busy, settled, restSeq, h]

theorem StateInv.settled {s : State} (h : StateInv s) : StateInv (settled s) where
  seqUsed := of_decide_eq_true (seqLegal_of_drained (busy_settled s))
  accRange := h.accRange
  noErrCause := h.noErrCause
  errCause := h.errCause
  errDrained := fun _ => busy_settled s

/-- A transport that takes every byte at once drains the block in one step for each pending byte. -/
theorem run_drains {n : Nat} : ∀ {s : State}, StateInv s → Prompt s → (pend s).length = n →
    run n s = .next (settled s) := by
  induction n with
  | zero =>
    intro s h hp hlen
    have hb : busy s = false := by
      simpa [List.length_eq_zero_iff.mp hlen] using busy_iff_pend_ne_nil h.seqLegal
    rw [settled_of_drained hb, hp.untimed_eq]
    rfl
  | succ n ih =>
    intro s h hp hlen
    have hb : busy s = true := (busy_iff_pend_ne_nil h.seqLegal).mpr (List.ne_nil_of_length_eq_add_one hlen)
    obtain ⟨b, q, -, -, -, -, hpend⟩ := emitStep_cases h.seqLegal hb
    have hstep : step s = .next (emitStep s) := by
      rw [step_busy hp.rst h.seqLegal h.causeLegal hb, hp.1, if_pos rfl, tick_of_nil ((emitStep_script s).trans hp.2)]
    have hp' : Prompt (emitStep s) := by simpa [Prompt] using hp
    rw [run_succ_of_step n hstep, ih (h.emitStep hb) hp' (by simpa [hpend] using hlen), settled_emitStep h.seqLegal hb]

/-- One word: a step accepts it, and one step for each byte it queues settles the block. -/
theorem run_acceptHead {s : State} (h : StateInv s) (hp : Prompt s) (hb : busy s = false) (hq : s.cmdq ≠ []) :
    ∃ t, StateInv t ∧ acceptHead s = settled t ∧ t.cmdq = s.cmdq.tail ∧ t.txlog = s.txlog ∧
      run (1 + (pend t).length) s = .next (settled t) := by
  obtain ⟨w, ws, hw⟩ := List.exists_cons_of_ne_nil hq
  have ho : offered s = some w := by simp [offered, hp.1, hw]
  have htick : tick (popWord s) = popWord s := tick_of_nil hp.2
  obtain ⟨t, hstep, heff⟩ := step_accept_effect hp.rst h.causeLegal hb ho
  have hacc : acceptCommand w (popWord s) = .next t := by
    rw [← htick, ← step_accept hp.rst h.causeLegal hb ho, hstep]
  have hpt : Prompt t := by
    rw [htick] at heff
    exact ⟨heff.pins_eq.trans hp.1, heff.script_eq.trans hp.2⟩
  refine ⟨t, h.step hstep, acceptHead_of_accept (by rw [hw]; rfl) hacc, by simpa using heff.cmdq_eq,
    by simpa using heff.txlog_eq, ?_⟩
  rw [Nat.add_comm, run_succ_of_step _ hstep, run_drains (h.step hstep) hpt rfl]

/-- `k` words: one step for each of them and one for each byte that leaves. -/
theorem run_acceptHead_iterate (k : Nat) : ∀ {s : State}, StateInv s → Prompt s → busy s = false → k ≤ s.cmdq.length →
    ∃ n, run n s = .next (acceptHead^[k] s) ∧ n + s.txlog.length = k + (acceptHead^[k] s).txlog.length := by
  induction k with
  | zero => exact fun _ _ _ _ => ⟨0, rfl, rfl⟩
  | succ k ih =>
    intro s h hp hb hk
    obtain ⟨t, ht, hhead, hcmdq, hlog, hrun⟩ := run_acceptHead h hp hb (List.ne_nil_of_length_pos (by omega))
    obtain ⟨n, hn, hcount⟩ := ih ht.settled (prompt_settled t) (busy_settled t) (by simp [hcmdq]; omega)
    rw [Function.iterate_succ_apply, hhead]
    refine ⟨1 + (pend t).length + n, by rw [run_add hrun, hn], ?_⟩
    simp [hlog] at hcount
    omega

/-- A framed packet's words under a prompt host and transport: one step for each command and each byte of the packet, after
which the packet is on the wire (R67, R127). -/
theorem run_framed {s : State} {sel : Byte} {cmds : List Instr} {rest : List Word} (h : StateInv s) (hq : s.seq = seqIdle)
    (he : s.err = false) (hp : Prompt s) (hpay : ∀ c ∈ cmds, isPayload c = true)
    (hw : s.cmdq = ([Instr.openPacket sel] ++ cmds ++ [Instr.close]).map encode ++ rest) :
    ∃ t, run (cmds.length + 2 + (packet sel (bodyBytes cmds)).length) s = .next t ∧
      PacketSent (s.txlog ++ packet sel (bodyBytes cmds)) (cksum (sel :: bodyBytes cmds)) rest t := by
  have hclosed := acceptHead_framed hq he h.causeLegal hpay hw
  obtain ⟨n, hrun, hcount⟩ := run_acceptHead_iterate (cmds.length + 2) h hp (busy_of_idle hq) (by simp [hw])
  have hn : n = cmds.length + 2 + (packet sel (bodyBytes cmds)).length := by
    rw [hclosed.txlog, List.length_append] at hcount
    omega
  exact ⟨_, hn ▸ hrun, hclosed⟩

end Sys2Proof.Safety

namespace Sys2Proof.Proofs

open Sys2Proof.Machine Sys2Proof.Safety

/-- Settles O55: FRAME's commands are a framed packet whose body is `body`, and such a packet's words end on the wire
(`run_framed`). -/
theorem frameIsEncode : Obligations.FrameIsEncode := by
  unfold Obligations.FrameIsEncode
  intro sel body
  have hbytes : bodyBytes (bytesSeq body) = body := by simp [bodyBytes, bytesSeq, List.flatMap_map, bodyOf]
  have hpay : ∀ c ∈ bytesSeq body, isPayload c = true := by simp [bytesSeq, isPayload]
  refine ⟨rfl, ?_, hpay, fun s rest h hq he hp hw => ?_⟩
  · simpa [frameSeq, bodyBytes, bodyOf] using hbytes
  · obtain ⟨t, hrun, hclosed⟩ := run_framed h hq he hp hpay hw
    rw [hbytes] at hclosed
    exact ⟨_, t, hrun, hclosed.cmdq, busy_of_idle hclosed.seqIdle, hclosed.txlog⟩

end Sys2Proof.Proofs

/-! Proofs of the statements of 40_framing.md: the commands that frame a packet, their frames, the emission of the pending
bytes, and the packet a run puts on the wire. -/

namespace Sys2Proof.Machine

/-! ### The commands behind the gate (R59 to R63) -/

theorem acceptGate_needOpen_of_openw (act : State → State) {s : State} (hc : causeLegal s = true) (he : s.err = false)
    (hq : s.seq = seqOpenw) : acceptGate (unlessError (needOpen act)) s = .next (act s) := by
  rw [acceptGate_ready _ (busy_of_openw hq) hc]
  simp [unlessError, needOpen, he, hq]

theorem acceptGate_needOpen_of_idle (act : State → State) {s : State} (hc : causeLegal s = true) (he : s.err = false)
    (hq : s.seq = seqIdle) : acceptGate (unlessError (needOpen act)) s = .next (cmdError .notOpen s) := by
  rw [acceptGate_ready _ (busy_of_idle hq) hc]
  simp [unlessError, needOpen, he, hq]

theorem acceptGate_needIdle_of_idle (act : State → State) {s : State} (hc : causeLegal s = true) (he : s.err = false)
    (hq : s.seq = seqIdle) : acceptGate (unlessError (needIdle act)) s = .next (act s) := by
  rw [acceptGate_ready _ (busy_of_idle hq) hc]
  simp [unlessError, needIdle, he, hq]

theorem acceptGate_needIdle_of_openw (act : State → State) {s : State} (hc : causeLegal s = true) (he : s.err = false)
    (hq : s.seq = seqOpenw) : acceptGate (unlessError (needIdle act)) s = .next (cmdError .alreadyOpen s) := by
  rw [acceptGate_ready _ (busy_of_openw hq) hc]
  simp [unlessError, needIdle, he, hq]

theorem acceptCommand_of_decode {w : Word} {i : Instr} (h : decode w = .instr i) (s : State) :
    acceptCommand w s = exec i s := by
  simp [acceptCommand, h]

/-- OPEN's new accumulator needs no reduction: STX + sel is at most 257 (R60). -/
theorem accAdd_stx (sel : Byte) : accAdd 0x0002#16 sel = BitVec.ofNat 16 (2 + sel.toNat) := by
  have := sel.isLt
  exact if_neg (by simp [Config.ckMod]; omega)

/-! ### What a guarded command can do -/

/-- The effects of an action behind the gate, the discard while `err` = 1 and a sequence check: the state stays (the block
is busy or in error), the check raises its cause, or the action is taken. -/
inductive Guarded (act : State → State) (s : State) : State → Prop
  | unchanged : Guarded act s s
  | rejected (c : Cause) (he : s.err = false) : Guarded act s (cmdError c s)
  | acted : Guarded act s (act s)

theorem guarded_of_unlessError {act check : State → State} {s t : State}
    (hcheck : s.err = false → Guarded act s (check s)) (h : acceptGate (unlessError check) s = .next t) :
    Guarded act s t := by
  obtain ⟨-, -, ⟨-, rfl⟩ | ⟨-, rfl⟩⟩ := acceptGate_cases h
  · exact .unchanged
  · obtain ⟨-, ha⟩ | ⟨he, ha⟩ := unlessError_cases check s
    · rw [ha]; exact .unchanged
    · rw [ha]; exact hcheck he

theorem guarded_of_needOpen {act : State → State} {s t : State}
    (h : acceptGate (unlessError (needOpen act)) s = .next t) : Guarded act s t := by
  refine guarded_of_unlessError (fun he => ?_) h
  obtain ⟨-, ha⟩ | ⟨-, ha⟩ := needOpen_cases act s
  · rw [ha]; exact .acted
  · rw [ha]; exact .rejected .notOpen he

theorem guarded_of_needIdle {act : State → State} {s t : State}
    (h : acceptGate (unlessError (needIdle act)) s = .next t) : Guarded act s t := by
  refine guarded_of_unlessError (fun he => ?_) h
  obtain ⟨-, ha⟩ | ⟨-, ha⟩ := needIdle_cases act s
  · rw [ha]; exact .acted
  · rw [ha]; exact .rejected .alreadyOpen he

/-- A guarded command keeps what neither its action nor the error entry writes. -/
theorem Guarded.keeps {α : Type} {act : State → State} {s t : State} (h : Guarded act s t) (field : State → α)
    (hact : field (act s) = field s) (herr : ∀ c, field (cmdError c s) = field s) : field t = field s := by
  cases h with
  | unchanged => rfl
  | rejected c _ => exact herr c
  | acted => exact hact

/-- A guarded command whose action leaves the error alone keeps the error, or enters it and does nothing else (R105). -/
theorem Guarded.err_frame {act : State → State} {s t : State} (h : Guarded act s t) (herr : (act s).err = s.err)
    (hcause : (act s).cause = s.cause) :
    (t.err = s.err ∧ t.cause = s.cause) ∨ (s.err = false ∧ t = { s with err := true, cause := t.cause }) := by
  cases h with
  | unchanged => exact .inl ⟨rfl, rfl⟩
  | rejected c he => exact .inr ⟨he, rfl⟩
  | acted => exact .inl ⟨herr, hcause⟩

/-- In IDLE the commands that need an open packet do not reach the accumulator. -/
theorem acc_of_needOpen_idle {act : State → State} {s t : State} (hq : s.seq = seqIdle)
    (h : acceptGate (unlessError (needOpen act)) s = .next t) : t.acc = s.acc := by
  have hreject : needOpen act s = cmdError .notOpen s := by simp [needOpen, hq]
  have hguard : Guarded (cmdError .notOpen) s t := guarded_of_unlessError (fun _ => hreject ▸ .acted) h
  exact hguard.keeps State.acc rfl fun _ => rfl

theorem acc_of_rejectWord {c : Cause} {s t : State} (h : rejectWord c s = .next t) : t.acc = s.acc := by
  have hguard : Guarded (cmdError c) s t := guarded_of_unlessError (fun _ => .acted) h
  exact hguard.keeps State.acc rfl fun _ => rfl

/-- In IDLE only OPEN and CLRERR write the accumulator (R62). -/
theorem acceptCommand_acc_idle {w : Word} {s t : State} (h : acceptCommand w s = .next t) (hq : s.seq = seqIdle)
    (hne : t.acc ≠ s.acc) : (∃ sel, w = encode (.openPacket sel)) ∨ w = encode .clrErr := by
  cases hd : decode w with
  | illegalOp =>
    simp only [acceptCommand, hd] at h
    exact absurd (acc_of_rejectWord h) hne
  | rsvdBits =>
    simp only [acceptCommand, hd] at h
    exact absurd (acc_of_rejectWord h) hne
  | instr i =>
    obtain ⟨hops, hr⟩ := decode_eq_instr_iff.mp hd
    rw [acceptCommand_of_decode hd] at h
    rw [← encode_of_operands hops hr]
    cases i with
    | openPacket sel => exact .inl ⟨sel, rfl⟩
    | byte b => exact absurd (acc_of_needOpen_idle hq h) hne
    | char cp => exact absurd (acc_of_needOpen_idle hq h) hne
    | close => exact absurd (acc_of_needOpen_idle hq h) hne
    | clrErr => exact .inr rfl

/-- A word with CLRERR's opcode and a reserved bit set (R47, R63). -/
theorem decode_clrErr_rsvdBits {w : Word} (hop : w.toNat / 2 ^ 28 = 5) (hr : w.toNat % 2 ^ 28 ≠ 0) :
    decode w = .rsvdBits := by
  rw [← opField_toNat] at hop
  rw [decode_of_format (n := 0) (m := 28) (i := .clrErr) (by simp [operands, hop]) (by simp [reservedClear, hop]),
    Nat.pow_zero, Nat.div_one, if_pos hr]

/-! ### The emission of a phase (R64, R65) -/

theorem emitStep_of_phase {s : State} {p : Phase} {b : Byte} {q : BitVec 5} (hp : phaseOf s.seq = some p)
    (hb : phaseByte s p = some b) (hq : phaseAfter p = some q) :
    emitStep s = { s with txlog := s.txlog ++ [b], seq := q } := by
  simp [emitStep, nextByte, nextSeq, hp, hb, hq]

theorem busy_of_phase {s : State} {p : Phase} {q : BitVec 5} (hp : phaseOf s.seq = some p)
    (hq : phaseAfter p = some q) : busy s = true := by
  cases hb : busy s with
  | true => rfl
  | false =>
    obtain h | h := drained_cases hb
    · rw [h] at hp; cases hp; cases hq
    · rw [h] at hp; cases hp; cases hq

theorem seqLegal_of_phase {s : State} {p : Phase} (hp : phaseOf s.seq = some p) : seqLegal s = true := by
  rw [seqLegal, ← phaseOf_isSome_iff, hp, Option.isSome_some]

theorem hdrByte_of_getElem? {k : Fin 10} {b : Byte} (h : hdr[k.val]? = some b) : hdrByte k = b := by
  simp [hdrByte, h]

/-! ### The digits of the packet's checksum (R56, R74, R76) -/

/-- The digits of a packet stand between its ETX and its EOT. -/
theorem packet_digits (sel : Byte) (body : List Byte) :
    ((packet sel body).drop (12 + body.length)).take 4 = hex4 (cksum (sel :: body)) := by
  have hsplit : packet sel body =
      (hdr ++ [sel] ++ body ++ [etx]) ++ (hex4 (cksum (sel :: body)) ++ [eot]) := by simp [packet]
  rw [hsplit, List.drop_left' (by simp [hdr]; omega), List.take_left' (by simp [hex4])]

end Sys2Proof.Machine

namespace Sys2Proof.Safety

open Sys2Proof.Machine

theorem hexDigitValue_hexDigit (n : BitVec 4) : hexDigitValue (hexDigit n) = some n.toNat := by
  revert n; decide

/-- Four hexadecimal digits read back as the value they show (R74, R75). -/
theorem parseHex_hex4 (v : Sum16) : parseHex 0 (hex4 v) = some v.toNat := by
  have := v.isLt
  simp only [hex4, hexDigitOf, parseHex, hexDigitValue_hexDigit, BitVec.extractLsb'_toNat, Nat.shiftRight_eq_div_pow]
  simp
  omega

/-- No command writes the log, the channel or the inputs. -/
theorem sameOutside_of_exec {i : Instr} {s t : State} (h : exec i s = .next t) : SameOutside s t := by
  obtain ⟨act, hgate⟩ := exec_eq_acceptGate i
  rw [hgate] at h
  obtain ⟨-, hc, ⟨-, rfl⟩ | ⟨hb, rfl⟩⟩ := acceptGate_cases h
  · exact ⟨rfl, rfl, rfl, rfl⟩
  · obtain ⟨u, hu, heff⟩ := acceptCommand_effect (encode i) hb hc
    rw [acceptCommand_encode, hgate, h] at hu
    cases hu
    exact ⟨heff.txlog_eq, heff.cmdq_eq, heff.pins_eq, heff.script_eq⟩

/-- While bytes are pending the host's word waits, whatever the transport does (R59). -/
theorem wordWaits_of_busy {s : State} (hl : seqLegal s = true) (hc : causeLegal s = true) (hb : busy s = true)
    (hr : s.pins.rst = false) : WordWaits s := by
  refine ⟨_, step_busy hr hl hc hb, ?_⟩
  cases s.pins.txReady <;> simp

/-- The emission step of a phase that has a byte to emit and a successor. -/
theorem emits_of_phase {s : State} {p : Phase} {b : Byte} {q : BitVec 5} (hr : s.pins.rst = false)
    (hc : causeLegal s = true) (ht : s.pins.txReady = true) (hp : phaseOf s.seq = some p)
    (hb : phaseByte s p = some b) (hq : phaseAfter p = some q) : Emits s b q := by
  refine ⟨by simp [txData, nextByte, hp, hb], _, step_busy hr (seqLegal_of_phase hp) hc (busy_of_phase hp hq), ?_⟩
  simp [ht, emitStep_of_phase hp hb hq]

/-- A run without reset that has accepted the words of a framed packet and drained has sent exactly the packet, whatever
the timing (R67). -/
theorem packetSent_of_run {s t : State} {n : Nat} {sel : Byte} {cmds : List Instr} {rest : List Word} (h : StateInv s)
    (hq : s.seq = seqIdle) (he : s.err = false) (hnr : NoReset s) (hpay : ∀ c ∈ cmds, isPayload c = true)
    (hw : s.cmdq = ([Instr.openPacket sel] ++ cmds ++ [Instr.close]).map encode ++ rest) (hrun : run n s = .next t)
    (hrest : t.cmdq = rest) (hb : busy t = false) :
    PacketSent (s.txlog ++ packet sel (bodyBytes cmds)) (cksum (sel :: bodyBytes cmds)) rest t := by
  obtain ⟨k, hlen, hset⟩ := run_settled hnr hrun
  have hk : k = cmds.length + 2 := by
    simp [hrest, hw] at hlen
    omega
  rw [settled_of_drained hb, settled_of_drained (busy_of_idle hq), hk] at hset
  have hsent := acceptHead_framed (s := untimed s) hq he h.causeLegal hpay hw
  rw [← hset] at hsent
  exact ⟨hsent.seqIdle, hsent.noErr, hsent.txlog, hsent.acc, hsent.cmdq⟩

end Sys2Proof.Safety

namespace Sys2Proof.Proofs

open Sys2Proof.Machine Sys2Proof.Safety

/-- Settles O15: both are guarded commands, and neither action writes hold1, `err` or `cause`. -/
theorem frameOfOpenAndByte : Obligations.FrameOfOpenAndByte := by
  unfold Obligations.FrameOfOpenAndByte
  intro i b s t hi h
  have hout := sameOutside_of_exec h
  obtain rfl | rfl := hi
  · have hguard : Guarded (queueHeader b) s t := guarded_of_needIdle h
    exact ⟨hguard.keeps State.hold1 rfl fun _ => rfl, hout, hguard.err_frame rfl rfl⟩
  · have hguard : Guarded (queueOne b) s t := guarded_of_needOpen h
    exact ⟨hguard.keeps State.hold1 rfl fun _ => rfl, hout, hguard.err_frame rfl rfl⟩

/-- Settles O17: CLOSE is a guarded command whose action writes `acc` and `seq` only. -/
theorem frameOfClose : Obligations.FrameOfClose := by
  unfold Obligations.FrameOfClose
  intro s t h
  have hguard : Guarded queueTrailer s t := guarded_of_needOpen h
  exact ⟨hguard.keeps State.hold0 rfl fun _ => rfl, hguard.keeps State.hold1 rfl fun _ => rfl, sameOutside_of_exec h,
    hguard.err_frame rfl rfl⟩

/-- Settles O18: CLRERR changes nothing or is `clearError`, which leaves the holding registers. -/
theorem frameOfClrErr : Obligations.FrameOfClrErr := by
  unfold Obligations.FrameOfClrErr
  intro s t h
  have hout := sameOutside_of_exec h
  obtain ⟨-, -, ⟨-, rfl⟩ | ⟨-, rfl⟩⟩ := acceptGate_cases h
  · exact ⟨rfl, rfl, hout⟩
  · exact ⟨rfl, rfl, hout⟩

/-- Settles O26: each encoding names its phase, and the step is that phase's emission (`emits_of_phase`). -/
theorem emissionTable : Obligations.EmissionTable := by
  unfold Obligations.EmissionTable
  intro s hr hc ht
  have emits {q r : BitVec 5} {b : Byte} (p : Phase) (hp : phaseOf q = some p) (hb : phaseByte s p = some b)
      (hnext : phaseAfter p = some r) (hq : s.seq = q) : Emits s b r :=
    emits_of_phase hr hc ht (hq ▸ hp) hb hnext
  refine ⟨fun k b hbyte => ?header, emits .selb rfl rfl rfl, emits .p1 rfl rfl rfl, emits .p2a rfl rfl rfl,
    emits .p2b rfl rfl rfl, emits .tetx rfl rfl rfl, emits (.ck 3) rfl rfl rfl, emits (.ck 2) rfl rfl rfl,
    emits (.ck 1) rfl rfl rfl, emits (.ck 0) rfl rfl rfl, emits .teot rfl rfl rfl⟩
  case header =>
    obtain ⟨hk, -⟩ := List.getElem?_eq_some_iff.mp hbyte
    exact emits (.hdr ⟨k, hk⟩) (phaseOf_hdr ⟨k, hk⟩) (congrArg some (hdrByte_of_getElem? hbyte)) rfl

/-- Settles O42: the run ends where `acceptHead_framed` says (`packetSent_of_run`), and the packet's digits read back as its
checksum. -/
theorem framedRunPutsPacketOnWire : Obligations.FramedRunPutsPacketOnWire := by
  unfold Obligations.FramedRunPutsPacketOnWire
  intro s t n sel cmds rest h hq he hnr hpay hw hrun hrest hb
  obtain ⟨hseq, herr, hlog, hacc, -⟩ := packetSent_of_run h hq he hnr hpay hw hrun hrest hb
  refine ⟨hlog, hseq, herr, hacc, ?_⟩
  rw [hlog, Nat.add_assoc, List.drop_length_add_append, packet_digits, parseHex_hex4, hacc]

/-- Settles O6: the word on the channel is accepted, and AcceptCommand of it is `exec` of what it decodes to. -/
theorem stepRunsDecodedCommand : Obligations.StepRunsDecodedCommand := by
  unfold Obligations.StepRunsDecodedCommand
  intro s w rest i hr hen _ hc hb hw hd
  have ho : offered s = some w := by simp [offered, hen, hw]
  rw [step_accept hr hc hb ho, acceptCommand_of_decode hd, popWord, hw, List.tail_cons]

/-- Settles O8: in IDLE OPEN is `queueHeader`, in OPENW the sequence check's error. -/
theorem openQueuesHeaderAndSelector : Obligations.OpenQueuesHeaderAndSelector := by
  unfold Obligations.OpenQueuesHeaderAndSelector
  intro sel s hl hc
  refine ⟨encode_openPacket_toNat sel, fun he hq => ?opens, acceptGate_needIdle_of_openw _ hc,
    wordWaits_of_busy hl hc⟩
  case opens =>
    have hsel := sel.isLt
    refine ⟨_, acceptGate_needIdle_of_idle _ hc he hq, ?_, ?_, pend_of_seq (p := .hdr 0) rfl rfl, rfl, rfl⟩
    · rw [queueHeader, accAdd_stx]
    · rw [queueHeader_acc, accAdd_stx, BitVec.toNat_ofNat]
      omega

/-- Settles O9: in OPENW BYTE is `queueOne`, in IDLE the sequence check's error. -/
theorem byteQueuesOneRawByte : Obligations.ByteQueuesOneRawByte := by
  unfold Obligations.ByteQueuesOneRawByte
  intro b s hl hc
  refine ⟨encode_byte_toNat b, fun he hq => ?queues, acceptGate_needOpen_of_idle _ hc, wordWaits_of_busy hl hc, by decide⟩
  case queues =>
    exact ⟨_, acceptGate_needOpen_of_openw _ hc he hq, rfl, pend_of_seq (p := .p1) rfl rfl, rfl, rfl⟩

/-- Settles O10: in OPENW CLOSE is `queueTrailer`, a busy step emits or waits, TEOT's successor is IDLE, and in IDLE
`acceptCommand_acc_idle` names the commands that write `acc`. -/
theorem closeQueuesTrailer : Obligations.CloseQueuesTrailer := by
  unfold Obligations.CloseQueuesTrailer
  refine ⟨by decide, fun s hl hc => ⟨fun he hq => ?closes, acceptGate_needOpen_of_idle _ hc, wordWaits_of_busy hl hc⟩,
    fun s t hr h hb => ?accKept, fun s t hr ht h hq => ?afterEot, fun s t w => acceptCommand_acc_idle⟩
  case closes =>
    exact ⟨_, acceptGate_needOpen_of_openw _ hc he hq, rfl, pend_of_seq (p := .tetx) rfl rfl, rfl, rfl⟩
  case accKept =>
    obtain ⟨-, rfl | rfl⟩ := step_of_busy hr hb h
    · simp
    · simp
  case afterEot =>
    have hc : causeLegal s = true := by
      obtain ⟨hreset, -⟩ | ⟨-, -, hc, -⟩ := step_effect h
      · simp [hr] at hreset
      · exact hc
    obtain ⟨-, u, hu, -, hidle, -⟩ := emits_of_phase (p := .teot) hr hc ht (by rw [hq]; rfl) rfl rfl
    cases h.symm.trans hu
    exact ⟨hidle, busy_of_idle hidle⟩

/-- Settles O11: CLRERR is `clearError` in every drained state; a reserved bit makes its word a rejected or discarded one. -/
theorem clrErrAbandonsPacket : Obligations.ClrErrAbandonsPacket := by
  unfold Obligations.ClrErrAbandonsPacket
  refine ⟨by decide, fun s hl hc => ⟨fun hb => ?clears, wordWaits_of_busy hl hc, fun w hb hop hr => ?rejects⟩⟩
  case clears => exact ⟨_, acceptGate_ready _ hb hc, rfl, rfl, rfl, pend_of_drained rfl⟩
  case rejects =>
    simp only [acceptCommand, decode_clrErr_rsvdBits hop hr, rejectWord, acceptGate_ready _ hb hc, unlessError,
      apply_ite Host.Outcome.next]
    rfl

/-- Settles O14: every command is an action behind the gate, which a busy state does not pass. -/
theorem busyExecChangesNothing : Obligations.BusyExecChangesNothing := by
  unfold Obligations.BusyExecChangesNothing
  intro i s hl hc hb
  obtain ⟨act, hgate⟩ := exec_eq_acceptGate i
  rw [hgate, acceptGate_busy act hl hc hb]

end Sys2Proof.Proofs

/-! Proofs of the statements of 41_checksum.md: the accumulator's step, the checksum's range and modulus, the digits it is
shown by, and the part of a packet it covers. -/

namespace Sys2Proof.Machine

/-! ### The checksum as a number (R69 to R72) -/

/-- The checksum is the exact sum of STX, the payload and ETX, reduced once (R69). -/
theorem cksum_toNat (s : List Byte) : (cksum s).toNat = (2 + (s.map BitVec.toNat).sum + 3) % 65535 := by
  rw [cksum, BitVec.toNat_ofNat]
  exact Nat.mod_eq_of_lt (Nat.lt_trans (Nat.mod_lt _ (by decide)) (by decide))

theorem cksum_le (s : List Byte) : (cksum s).toNat ≤ 65534 := by
  rw [cksum_toNat]
  omega

/-- Every value in range is a checksum: of bytes 0x01, enough of them to pass the modulus once (R72). -/
theorem exists_cksum_eq {v : Nat} (hv : v ≤ 65534) : ∃ s : List Byte, (cksum s).toNat = v := by
  have hsum : ((List.replicate (v + 65530) 0x01#8).map BitVec.toNat).sum = v + 65530 := by
    rw [List.map_replicate, List.sum_replicate]
    exact Nat.mul_one _
  refine ⟨List.replicate (v + 65530) 0x01#8, ?_⟩
  rw [cksum_toNat, hsum]
  omega

/-- The accumulator depends on the sum of the bytes only, not on their order (R71). -/
theorem foldl_accAdd_perm {a : Sum16} (ha : a.toNat ≤ 65534) {bs cs : List Byte} (h : bs.Perm cs) :
    bs.foldl accAdd a = cs.foldl accAdd a := by
  apply BitVec.eq_of_toNat_eq
  rw [foldl_accAdd_toNat bs ha, foldl_accAdd_toNat cs ha, (h.map BitVec.toNat).sum_eq]

/-- Reduction modulo 65535 and modulo 65536 part at 65535 and first meet again at the product of the moduli: with q, r the
quotient and remainder by 65536, 65535 divides `n - r` only if it divides q (R73). -/
theorem mod_65535_ne_mod_65536 {n : Nat} (hlo : 65535 ≤ n) (hhi : n < 65535 * 65536) : n % 65535 ≠ n % 65536 := by
  omega

/-! ### The digits (R74, R75) -/

/-- The j-th digit is that of the value's j-th hexadecimal place. -/
theorem hexDigitOf_eq (v : Sum16) (j : Fin 4) : hexDigitOf v j =
    if v.toNat / 2 ^ (4 * j.val) % 16 < 10 then BitVec.ofNat 8 (0x30 + v.toNat / 2 ^ (4 * j.val) % 16)
    else BitVec.ofNat 8 (0x41 + (v.toNat / 2 ^ (4 * j.val) % 16 - 10)) := by
  rw [hexDigitOf, hexDigit, BitVec.extractLsb'_toNat, Nat.shiftRight_eq_div_pow]

/-- A digit below ten is in '0'..'9', any other in 'A'..'F' (R75). -/
theorem hexDigit_range (n : BitVec 4) :
    (0x30 ≤ (hexDigit n).toNat ∧ (hexDigit n).toNat ≤ 0x39) ∨ (0x41 ≤ (hexDigit n).toNat ∧ (hexDigit n).toNat ≤ 0x46) := by
  have hn := n.isLt
  rw [hexDigit]
  split
  · left
    rw [BitVec.toNat_ofNat]
    omega
  · right
    rw [BitVec.toNat_ofNat]
    omega

/-! ### The bytes the checksum covers (R76) -/

/-- From the header's STX to the ETX a packet holds the STX, the selector, the body and the ETX. -/
theorem packet_stx_to_etx (sel : Byte) (body : List Byte) :
    ((packet sel body).drop 9).take (body.length + 3) = stx :: sel :: body ++ [etx] := by
  have hsplit : (packet sel body).drop 9 =
      (stx :: sel :: body ++ [etx]) ++ (hex4 (cksum (sel :: body)) ++ [eot]) := by simp [packet, hdr]
  rw [hsplit, List.take_left' (by simp)]

/-- What the checksum reduces is the sum of exactly those bytes. -/
theorem cksum_eq_sum_stx_to_etx (sel : Byte) (body : List Byte) :
    (cksum (sel :: body)).toNat = ((stx :: sel :: body ++ [etx]).map BitVec.toNat).sum % 65535 := by
  simp only [cksum_toNat, List.cons_append, List.map_cons, List.map_append, List.map_nil, List.sum_cons, List.sum_append,
    List.sum_nil, BitVec.toNat_ofNat]
  omega

end Sys2Proof.Machine

namespace Sys2Proof.Safety

open Sys2Proof.Machine

/-- The digits "FFFF" read back as 65535 and as nothing else (R72, R74). -/
theorem toNat_of_hex4_ffff {v : Sum16} (h : hex4 v = [0x46#8, 0x46#8, 0x46#8, 0x46#8]) : v.toNat = 65535 := by
  have hread := parseHex_hex4 v
  rw [h] at hread
  exact (Option.some.inj hread).symm

end Sys2Proof.Safety

namespace Sys2Proof.Proofs

open Sys2Proof.Machine Sys2Proof.Safety

/-- Settles O32: `accAdd_toNat` is the sum modulo 65535, which is below twice the modulus. -/
theorem accAddIsModularSum : Obligations.AccAddIsModularSum := by
  unfold Obligations.AccAddIsModularSum
  intro a b ha
  have hb := b.isLt
  refine ⟨accAdd_toNat b ha, accAdd_le b ha, fun hge => ?reduced, fun hlt => ?unreduced⟩
  case reduced =>
    rw [accAdd_toNat b ha]
    omega
  case unreduced => rw [accAdd_toNat b ha, Nat.mod_eq_of_lt hlt]

/-- Settles O33: the order does not matter (`foldl_accAdd_perm`), and in the body's own order the sum is the checksum. -/
theorem accumulationIsChecksum : Obligations.AccumulationIsChecksum := by
  unfold Obligations.AccumulationIsChecksum
  intro sel body order hperm
  rw [← accAdd_stx, foldl_accAdd_perm (accAdd_le sel (by decide)) hperm]
  exact foldl_accAdd_eq_cksum sel body

/-- Settles O34: the checksum is a remainder modulo 65535, so it is not what "FFFF" reads back as. -/
theorem checksumRange : Obligations.ChecksumRange := by
  unfold Obligations.ChecksumRange
  refine ⟨fun s => ⟨cksum_le s, fun hffff => ?_⟩, fun v => exists_cksum_eq⟩
  have hle := cksum_le s
  rw [toNat_of_hex4_ffff hffff] at hle
  exact absurd hle (by decide)

/-- Settles O35: the checksum is the exact sum modulo 65535; the rest is about the two moduli. -/
theorem checksumIsNotWraparound : Obligations.ChecksumIsNotWraparound := by
  unfold Obligations.ChecksumIsNotWraparound
  intro s total htotal
  rw [cksum_toNat, ← htotal]
  exact ⟨rfl, Nat.mod_eq_of_lt, mod_65535_ne_mod_65536, fun h => h ▸ ⟨by decide, by decide⟩⟩

/-- Settles O36: digit by digit (`hexDigitOf_eq`); the first place of a 16-bit value needs no reduction. -/
theorem hexRendering : Obligations.HexRendering := by
  unfold Obligations.HexRendering
  refine ⟨fun v => ?digits, fun v => ⟨parseHex_hex4 v, rfl⟩, hexDigit_range⟩
  case digits =>
    have hfirst : v.toNat / 4096 % 16 = v.toNat / 4096 := Nat.mod_eq_of_lt (by omega)
    simp [hex4, hexDigitOf_eq, hfirst]

/-- Settles O41: the digits before EOT are those of the checksum, and the checksum is the sum of the bytes from STX to
ETX. -/
theorem packetChecksumReadsBack : Obligations.PacketChecksumReadsBack := by
  unfold Obligations.PacketChecksumReadsBack
  intro sel body
  rw [packet_digits, parseHex_hex4, packet_stx_to_etx, cksum_eq_sum_stx_to_etx]

end Sys2Proof.Proofs

/-! Proofs of the statements of 42_escape.md: what may be a key of EXT_MAP, what the escape unit makes of a code point and of
a text, and CHAR, which queues it. -/

namespace Sys2Proof.Machine

/-! ### What may be a key (R79) -/

/-- The table of accented letters leaves out the multiplication and the division sign between its ranges. -/
theorem accentedLatin_gaps :
    ∀ r ∈ accentedLatin, (r.2 < 0xD7 ∨ 0xD7 < r.1) ∧ (r.2 < 0xF7 ∨ 0xF7 < r.1) := by decide

theorem mayBeKey_ne_sign {cp : CodePoint} (h : mayBeKey cp = true) : cp.toNat ≠ 0xD7 ∧ cp.toNat ≠ 0xF7 := by
  obtain ⟨r, hr, hlo, hhi⟩ := (mayBeKey_iff cp).mp h
  have hgaps := accentedLatin_gaps r hr
  omega

/-! ### The escape unit (R81 to R84) -/

theorem esc_of_low {cp : CodePoint} (hkey : lutLookup cp = none) (h : cp.toNat ≤ 0x7F) :
    esc cp = [BitVec.ofNat 8 cp.toNat] := by
  rw [esc_of_not_key hkey, if_pos h]
  rfl

theorem esc_of_high {cp : CodePoint} (hkey : lutLookup cp = none) (h : 0x7F < cp.toNat) :
    esc cp = [Config.placeholder] := by
  rw [esc_of_not_key hkey, if_neg (Nat.not_le.mpr h)]

/-- Code points above ASCII that are outside the table of accented letters are no keys and give the placeholder (R79, R84).
The premise is a Boolean on the whole list, so that a literal list is decided by running the table. -/
theorem placeholder_of_unaccented {l : List CodePoint}
    (hl : l.all (fun cp => !mayBeKey cp && decide (0x7F < cp.toNat)) = true) :
    ∀ cp ∈ l, lutLookup cp = none ∧ esc cp = [Config.placeholder] := by
  intro cp hcp
  have hout := List.all_eq_true.mp hl cp hcp
  rw [Bool.and_eq_true, Bool.not_eq_true', decide_eq_true_iff] at hout
  obtain ⟨hmay, hhigh⟩ := hout
  have hnone := lutLookup_of_not_mayBeKey hmay
  exact ⟨hnone, esc_of_high hnone hhigh⟩

/-- No code point up to 0x7F is a key, so ASCII passes unchanged (R79, R83). -/
theorem esc_ascii {cp : CodePoint} (h : cp.toNat ≤ 0x7F) : esc cp = [BitVec.ofNat 8 cp.toNat] :=
  esc_of_low (lutLookup_of_out (.inl (by omega))) h

theorem esc_length (cp : CodePoint) : (esc cp).length = 1 + if (lutLookup cp).isSome then 1 else 0 := by
  cases hkey : lutLookup cp with
  | some e => rw [esc_of_key hkey]; rfl
  | none => rw [esc_of_not_key hkey, apply_ite List.length]; exact ite_self _

/-! ### A text (R85) -/

theorem escapeText_cons (cp : CodePoint) (t : List CodePoint) : escapeText (cp :: t) = esc cp ++ escapeText t :=
  List.flatMap_cons

theorem escapeText_append (t u : List CodePoint) : escapeText (t ++ u) = escapeText t ++ escapeText u :=
  List.flatMap_append

theorem escapeText_length (t : List CodePoint) :
    (escapeText t).length = t.length + t.countP (fun cp => (lutLookup cp).isSome) := by
  induction t with
  | nil => rfl
  | cons cp t ih =>
    rw [escapeText_cons, List.length_append, esc_length, ih, List.length_cons, List.countP_cons]
    omega

theorem bodyBytes_textSeq (t : List CodePoint) : bodyBytes (textSeq t) = escapeText t :=
  List.flatMap_map Instr.char bodyOf t

/-! ### What CHAR queues (R78) -/

theorem queueEsc_of_pair {cp : CodePoint} {m c : Byte} (h : esc cp = [m, c]) : queueEsc cp = queueTwo m c := by
  funext s
  simp [queueEsc, h]

theorem queueEsc_of_single {cp : CodePoint} {b : Byte} (h : esc cp = [b]) : queueEsc cp = queueOne b := by
  funext s
  simp [queueEsc, h]

/-- Exactly the escape unit's bytes are pending after CHAR, in an open packet (R22, R78). -/
theorem queueEsc_pending (cp : CodePoint) (s : State) :
    pend (queueEsc cp s) = esc cp ∧ openF (queueEsc cp s) = true ∧ busy (queueEsc cp s) = true := by
  obtain ⟨m, c, hesc, hqueue⟩ | ⟨b, hesc, hqueue⟩ := queueEsc_cases cp s
  · rw [hesc, hqueue]
    exact ⟨pend_of_seq (p := .p2a) rfl rfl, rfl, rfl⟩
  · rw [hesc, hqueue]
    exact ⟨pend_of_seq (p := .p1) rfl rfl, rfl, rfl⟩

theorem queueEsc_err_cause (cp : CodePoint) (s : State) :
    (queueEsc cp s).err = s.err ∧ (queueEsc cp s).cause = s.cause := by
  obtain ⟨m, c, -, hqueue⟩ | ⟨b, -, hqueue⟩ := queueEsc_cases cp s
  · rw [hqueue]; exact ⟨rfl, rfl⟩
  · rw [hqueue]; exact ⟨rfl, rfl⟩

end Sys2Proof.Machine

namespace Sys2Proof.Proofs

open Sys2Proof.Machine Sys2Proof.Safety

/-- Settles O12: in OPENW CHAR is `queueEsc`, which is `queueTwo` or `queueOne` by what `esc` gives; in IDLE it is the
sequence check's error. -/
theorem charQueuesEscapedBytes : Obligations.CharQueuesEscapedBytes := by
  unfold Obligations.CharQueuesEscapedBytes
  intro cp s hl hc
  refine ⟨encode_char_toNat cp, fun he hq => ?queues, ?oneOrTwo, fun _ _ => esc_of_key, esc_of_low, esc_of_high,
    acceptGate_needOpen_of_idle _ hc, wordWaits_of_busy hl hc, by decide⟩
  case queues =>
    obtain ⟨hpend, hopen, hbusy⟩ := queueEsc_pending cp s
    exact ⟨_, acceptGate_needOpen_of_openw _ hc he hq, hpend, hopen, hbusy,
      fun _ _ hesc => by rw [queueEsc_of_pair hesc]; rfl, fun _ hesc => by rw [queueEsc_of_single hesc]; rfl⟩
  case oneOrTwo =>
    obtain ⟨m, c, hesc⟩ | ⟨b, hesc⟩ := esc_cases cp
    · exact .inr (by rw [hesc]; rfl)
    · exact .inl (by rw [hesc]; rfl)

/-- Settles O13: below 0x80 the escape unit gives the one byte BYTE queues. -/
theorem charActsAsByteOnAscii : Obligations.CharActsAsByteOnAscii := by
  unfold Obligations.CharActsAsByteOnAscii
  intro cp s h
  have hqueue : queueEsc cp = queueOne (BitVec.ofNat 8 cp.toNat) := queueEsc_of_single (esc_ascii h)
  exact congrArg (fun act => acceptGate (unlessError (needOpen act)) s) hqueue

/-- Settles O16: CHAR is a guarded command; its action leaves `err` and `cause`, and hold1 where it queues one byte. -/
theorem frameOfChar : Obligations.FrameOfChar := by
  unfold Obligations.FrameOfChar
  intro cp s t h
  have hguard : Guarded (queueEsc cp) s t := guarded_of_needOpen h
  obtain ⟨herr, hcause⟩ := queueEsc_err_cause cp s
  refine ⟨sameOutside_of_exec h, fun hone => ?hold1, hguard.err_frame herr hcause⟩
  case hold1 =>
    obtain ⟨b, hesc⟩ := List.length_eq_one_iff.mp hone
    exact hguard.keeps State.hold1 (by rw [queueEsc_of_single hesc]; rfl) fun _ => rfl

/-- Settles O38: a key is in the table of accented letters, whose ranges leave out what R79 rules out; the letters listed
last are not in the table. -/
theorem escapeMapConstraints : Obligations.EscapeMapConstraints := by
  unfold Obligations.EscapeMapConstraints
  refine ⟨rfl, rfl, fun cp hkey => ?keys, placeholder_of_unaccented (by decide)⟩
  case keys =>
    have hmay := mayBeKey_of_key hkey
    have hbounds := mayBeKey_bounds hmay
    obtain ⟨htimes, hdivide⟩ := mayBeKey_ne_sign hmay
    refine ⟨hmay, ?_, ?_, ?_, ?_, htimes, hdivide, ?_⟩ <;> omega

/-- Settles O39: `escapeText` maps each code point to its own bytes, and a key's are one more (`esc_length`). -/
theorem escapeTextPerCodePoint : Obligations.EscapeTextPerCodePoint := by
  unfold Obligations.EscapeTextPerCodePoint
  exact ⟨fun t => ⟨escapeText_length t, bodyBytes_textSeq t⟩, escapeText_append, by decide⟩

/-- Settles O37: the branches of `esc`; ASCII, surrogates and values from 0x110000 on are outside the table of keys. -/
theorem escapeOfEveryCodePoint : Obligations.EscapeOfEveryCodePoint := by
  unfold Obligations.EscapeOfEveryCodePoint
  refine ⟨fun _ _ _ => esc_of_key, fun _ => esc_of_low, fun _ => esc_of_high, fun _ => esc_ascii, fun cp h => ?noScalar⟩
  case noScalar => exact esc_of_high (lutLookup_of_out (.inr (by omega))) (by omega)

end Sys2Proof.Proofs

/-! Proofs of the statements of 43_command_builder.md: the expansion of each host operation, the bytes it adds to its packet's
body, and the packet it puts on the wire. -/

namespace Sys2Proof.Machine

/-! ### Expansions (R87) -/

theorem expandOp_eq_some_iff {op : HostOp} {is : List Instr} :
    expandOp op = some is ↔ opWellFormed op = true ∧ is = [.openPacket (opSelector op)] ++ opBody op ++ [.close] := by
  rw [expandOp, Option.ite_none_right_eq_some, Option.some_inj, eq_comm (a := is)]

theorem expandOp_of_wellFormed {op : HostOp} (h : opWellFormed op = true) :
    expandOp op = some ([.openPacket (opSelector op)] ++ opBody op ++ [.close]) :=
  expandOp_eq_some_iff.mpr ⟨h, rfl⟩

theorem expandOp_of_not_wellFormed {op : HostOp} (h : opWellFormed op = false) : expandOp op = none := by
  simp [expandOp, h]

/-! ### Bodies: commands that add bytes only, and the bytes they add (R67) -/

theorem isPayload_of_mem_bytesSeq {bs : List Byte} {c : Instr} (h : c ∈ bytesSeq bs) : isPayload c = true := by
  obtain ⟨b, -, rfl⟩ := List.mem_map.mp h
  rfl

theorem isPayload_of_mem_textSeq {t : List CodePoint} {c : Instr} (h : c ∈ textSeq t) : isPayload c = true := by
  obtain ⟨cp, -, rfl⟩ := List.mem_map.mp h
  rfl

theorem special_eq_bytesSeq (c : SubCmd) (arg : List Byte) : special c arg = bytesSeq (Config.subcmd c :: arg) := rfl

theorem isPayload_of_mem_special {k : SubCmd} {arg : List Byte} {c : Instr} (h : c ∈ special k arg) : isPayload c = true :=
  isPayload_of_mem_bytesSeq (special_eq_bytesSeq k arg ▸ h)

theorem opBody_writeText (label : CodePoint) (mode : String) (text : List CodePoint) :
    opBody (.writeText label mode text) =
      bytesSeq ([BitVec.ofNat 8 label.toNat, escByte, 0x20#8] ++ modeBytes (modeCode mode)) ++ textSeq text := rfl

theorem opBody_writeString (label : CodePoint) (text : List CodePoint) :
    opBody (.writeString label text) = bytesSeq [BitVec.ofNat 8 label.toNat] ++ textSeq text := rfl

theorem isPayload_of_mem_bytes_text {bs : List Byte} {t : List CodePoint} {c : Instr}
    (h : c ∈ bytesSeq bs ++ textSeq t) : isPayload c = true :=
  (List.mem_append.mp h).elim isPayload_of_mem_bytesSeq isPayload_of_mem_textSeq

theorem isPayload_of_mem_opBody {op : HostOp} {c : Instr} (h : c ∈ opBody op) : isPayload c = true := by
  cases op with
  | writeText label mode text => exact isPayload_of_mem_bytes_text (opBody_writeText label mode text ▸ h)
  | writeString label text => exact isPayload_of_mem_bytes_text (opBody_writeString label text ▸ h)
  | _ => exact isPayload_of_mem_special h

theorem bodyBytes_append (is js : List Instr) : bodyBytes (is ++ js) = bodyBytes is ++ bodyBytes js :=
  List.flatMap_append

theorem bodyBytes_bytesSeq (bs : List Byte) : bodyBytes (bytesSeq bs) = bs := by
  simp [bodyBytes, bytesSeq, List.flatMap_map, bodyOf]

theorem bodyBytes_bytes_text (bs : List Byte) (t : List CodePoint) :
    bodyBytes (bytesSeq bs ++ textSeq t) = bs ++ escapeText t := by
  rw [bodyBytes_append, bodyBytes_bytesSeq, bodyBytes_textSeq]

theorem bodyBytes_special (c : SubCmd) (arg : List Byte) : bodyBytes (special c arg) = Config.subcmd c :: arg := by
  rw [special_eq_bytesSeq, bodyBytes_bytesSeq]

/-! ### Display modes (R89) -/

theorem modeBytes_length (c : ModeCode) : (modeBytes c).length = 1 ∨ (modeBytes c).length = 2 := by
  cases c with
  | one b => exact .inl rfl
  | two b c => exact .inr rfl

theorem modeLookup_rotate : modeLookup "rotate" = some Config.rotateCode := if_pos rfl

theorem modeKnown_rotate : modeKnown "rotate" = true := congrArg Option.isSome modeLookup_rotate

theorem modeCode_of_unknown {m : String} (h : modeKnown m = false) : modeCode m = modeCode "rotate" := by
  have hnone : modeLookup m = none := by simpa [modeKnown] using h
  rw [modeCode, modeCode, hnone, modeLookup_rotate]
  rfl

/-! ### Formatted arguments (R92, R94) -/

theorem twoDigits_of_lt {n : Nat} (h : n < 100) :
    twoDigits n = [n / 10, n % 10].map (fun n => BitVec.ofNat 8 (0x30 + n)) := by
  have htens : n / 10 % 10 = n / 10 := Nat.mod_eq_of_lt (by omega)
  simp [twoDigits, asciiDigit, htens]

/-! ### The memory map (R98) -/

/-- The labels of one kind of slot are those of the default order, whatever the order of the descriptors. -/
theorem memorySlots_labels_perm (k : SlotKind) :
    ((memorySlots.filter (fun d => decide (d.kind = k))).map Slot.label).Perm
      ((defaultSlots.filter (fun d => decide (d.kind = k))).map Slot.label) :=
  (memorySlots_perm.filter _).map _

theorem memorySlots_capacity {d : Slot} (h : d ∈ memorySlots) :
    (d.kind = .text → d.capacity = 256 ∧ d.runAlways = true) ∧ (d.kind = .string → d.capacity = 125) := by
  have hall : ∀ d ∈ defaultSlots, (d.kind = .text → d.capacity = 256 ∧ d.runAlways = true) ∧
      (d.kind = .string → d.capacity = 125) := by decide
  exact hall d (mem_memorySlots.mp h)

end Sys2Proof.Machine

namespace Sys2Proof.Proofs

open Sys2Proof.Machine Sys2Proof.Safety

/-- Settles O49: an expansion is a framed packet whose body is BYTE and CHAR commands, and such a packet's words end on the
wire (`run_framed`). -/
theorem hostOperationIsOnePacket : Obligations.HostOperationIsOnePacket := by
  unfold Obligations.HostOperationIsOnePacket
  intro op is hop
  obtain ⟨-, rfl⟩ := expandOp_eq_some_iff.mp hop
  have hpay : ∀ c ∈ opBody op, isPayload c = true := fun _ => isPayload_of_mem_opBody
  refine ⟨rfl, hpay, fun s rest h hq he hp hw => ?_⟩
  obtain ⟨t, hrun, hsent⟩ := run_framed h hq he hp hpay hw
  exact ⟨_, t, hrun, hsent.cmdq, busy_of_idle hsent.seqIdle, hsent.txlog⟩

/-- Settles O50: both bodies are raw bytes followed by a text (`opBody_writeText`, `opBody_writeString`), and only a label up
to 0x7F makes the operation well formed. -/
theorem textOperations : Obligations.TextOperations := by
  unfold Obligations.TextOperations
  refine fun label mode text => ⟨fun hlow => ?ascii, fun hhigh => ?outside⟩
  case ascii =>
    refine ⟨expandOp_of_wellFormed (decide_eq_true hlow), ?_, expandOp_of_wellFormed (decide_eq_true hlow), ?_⟩
    · rw [opBody_writeText, bodyBytes_bytes_text]
    · rw [opBody_writeString, bodyBytes_bytes_text]
  case outside =>
    have hout : decide (label.toNat ≤ 0x7F) = false := decide_eq_false (Nat.not_le.mpr hhigh)
    exact ⟨expandOp_of_not_wellFormed hout, expandOp_of_not_wellFormed hout⟩

/-- Settles O51: an expansion reads the mode by its code only, and an unknown name's code is rotate's. -/
theorem unknownModeActsAsRotate : Obligations.UnknownModeActsAsRotate := by
  unfold Obligations.UnknownModeActsAsRotate
  refine ⟨fun m => modeBytes_length _, modeKnown_rotate, fun m label text hm => ?unknown⟩
  case unknown =>
    have hbody : opBody (.writeText label m text) = opBody (.writeText label "rotate" text) := by
      rw [opBody_writeText, opBody_writeText, modeCode_of_unknown hm]
    rw [expandOp, expandOp, hbody]
    rfl

/-- Settles O52: two digits show a number below 100 (`twoDigits_of_lt`), and one digit a number below 10. -/
theorem specialArguments : Obligations.SpecialArguments := by
  unfold Obligations.SpecialArguments
  refine ⟨fun t => ?time, fun d => ?weekday, fun d hm hd => ?date, rfl, rfl, rfl, rfl⟩
  case time =>
    have hhour := (Config.shownHour t.hour).isLt
    have hminute := t.minute.isLt
    refine ⟨(Config.shownHour t.hour).val, hhour, ?_⟩
    rw [argTime, twoDigits_of_lt (by omega), twoDigits_of_lt (by omega)]
    rfl
  case weekday =>
    have hday := (Config.weekdayNumber d).isLt
    refine ⟨(Config.weekdayNumber d).val, by omega, ?_⟩
    rw [argWeekday, asciiDigit, Nat.mod_eq_of_lt (by omega)]
  case date =>
    rw [argDate, twoDigits_of_lt hm, twoDigits_of_lt hd, twoDigits_of_lt (Nat.mod_lt _ (by decide))]
    rfl

/-- Settles O53: each operation listed has a `special` body, whose bytes `bodyBytes_special` gives. -/
theorem specialOperationBodies : Obligations.SpecialOperationBodies := by
  unfold Obligations.SpecialOperationBodies
  refine ⟨by decide, fun t d x b => ?write, ?read⟩
  case write =>
    simp only [List.forall_mem_cons, List.not_mem_nil, false_imp_iff, implies_true, and_true]
    refine ⟨?_, ?_, ?_, ?_, ?_, ?_⟩ <;> exact ⟨rfl, bodyBytes_special _ _⟩
  case read =>
    simp only [List.forall_mem_cons, List.not_mem_nil, false_imp_iff, implies_true, and_true]
    refine ⟨?_, ?_⟩ <;> exact ⟨rfl, bodyBytes_special _ _⟩

/-- Settles O54: the slots are those of the default order, each once (`memorySlots_perm`), where the labels are read off. -/
theorem memoryMapSlots : Obligations.MemoryMapSlots := by
  unfold Obligations.MemoryMapSlots
  exact ⟨memorySlots_perm.length_eq, memorySlots_labels_perm .text, memorySlots_labels_perm .string,
    fun _ => memorySlots_capacity, fun _ => List.suffix_append _ _, bodyBytes_special _ _⟩

end Sys2Proof.Proofs

/-! Proofs of the statements of 60_exceptions.md: what each cause is raised by, what an error leaves unchanged, and the
states a step holds or stops in. -/

namespace Sys2Proof.Machine

/-! ### Discarding, rejecting and stopping at the gate -/

theorem acceptGate_reservedCause {s : State} (act : State → State) (hl : seqLegal s = true)
    (hc : causeLegal s = false) : acceptGate act s = .fault .reservedCause := by
  simp [acceptGate, hl, hc]

theorem step_reservedCause {s : State} (hr : s.pins.rst = false) (hl : seqLegal s = true)
    (hc : causeLegal s = false) : step s = .fault .reservedCause := by
  simp [step, cycle, hr, hl, hc]

theorem acceptGate_unlessError_of_err (act : State → State) {s : State} (hb : busy s = false)
    (hc : causeLegal s = true) (he : s.err = true) : acceptGate (unlessError act) s = .next s := by
  rw [acceptGate_ready _ hb hc]
  simp [unlessError, he]

theorem rejectWord_of_noErr (c : Cause) {s : State} (hb : busy s = false) (hc : causeLegal s = true)
    (he : s.err = false) : rejectWord c s = .next (cmdError c s) := by
  rw [rejectWord, acceptGate_ready _ hb hc]
  simp [unlessError, he]

theorem acceptCommand_of_illegalOp {w : Word} (h : decode w = .illegalOp) (s : State) :
    acceptCommand w s = rejectWord .illegalOp s := by
  simp [acceptCommand, h]

theorem acceptCommand_of_rsvdBits {w : Word} (h : decode w = .rsvdBits) (s : State) :
    acceptCommand w s = rejectWord .rsvdBits s := by
  simp [acceptCommand, h]

/-- Every word but CLRERR's stands behind the discard while `err` = 1 (R107). -/
theorem acceptCommand_eq_unlessError {w : Word} (hw : w ≠ encode .clrErr) :
    ∃ act, ∀ s, acceptCommand w s = acceptGate (unlessError act) s := by
  cases hd : decode w with
  | illegalOp => exact ⟨_, acceptCommand_of_illegalOp hd⟩
  | rsvdBits => exact ⟨_, acceptCommand_of_rsvdBits hd⟩
  | instr i =>
    cases i with
    | openPacket sel => exact ⟨_, acceptCommand_of_decode hd⟩
    | byte b => exact ⟨_, acceptCommand_of_decode hd⟩
    | char cp => exact ⟨_, acceptCommand_of_decode hd⟩
    | close => exact ⟨_, acceptCommand_of_decode hd⟩
    | clrErr =>
      obtain ⟨hops, hr⟩ := decode_eq_instr_iff.mp hd
      exact absurd (encode_of_operands hops hr).symm hw

/-- A drained block that answers a word does so in one of the ways `AcceptEffect` lists. -/
theorem acceptEffect_of_acceptCommand {w : Word} {s t : State} (hb : busy s = false)
    (h : acceptCommand w s = .next t) : AcceptEffect s t := by
  obtain ⟨act, hgate⟩ := acceptCommand_eq_acceptGate w
  obtain ⟨-, hc, -⟩ := acceptGate_cases ((hgate s).symm.trans h)
  obtain ⟨u, hu, heff⟩ := acceptCommand_effect w hb hc
  cases h.symm.trans hu
  exact heff

/-- An effect that leaves `err` = 1 is the discard or the error entry: it writes `err` and `cause` only (R105, R107). -/
theorem AcceptEffect.eq_of_err {s t : State} (h : AcceptEffect s t) (he : t.err = true) :
    t = { s with err := t.err, cause := t.cause } := by
  cases h with
  | discarded _ => rfl
  | rejected c _ => rfl
  | cleared => cases he
  | opened _ hs _ | queuedOne _ hs _ | queuedTwo _ _ hs _ | closed hs _ =>
    exact absurd (hs.symm.trans he) Bool.false_ne_true

theorem offered_of_nil {s : State} (h : s.cmdq = []) : offered s = none := by
  simp [offered, h]

end Sys2Proof.Machine

namespace Sys2Proof.Safety

open Sys2Proof.Machine

/-! ### States that differ in the input levels only -/

theorem sameButTiming_tick (s : State) : SameButTiming s (tick s) := tick_eq s

theorem SameButTiming.trans {s t u : State} (h₁ : SameButTiming s t) (h₂ : SameButTiming t u) : SameButTiming s u :=
  Eq.trans h₂ (congrArg (fun v : State => { v with pins := u.pins, script := u.script }) h₁)

theorem SameButTiming.seq_eq {s t : State} (h : SameButTiming s t) : t.seq = s.seq := by rw [h]

theorem SameButTiming.cause_eq {s t : State} (h : SameButTiming s t) : t.cause = s.cause := by rw [h]

theorem SameButTiming.cmdq_eq {s t : State} (h : SameButTiming s t) : t.cmdq = s.cmdq := by rw [h]

theorem SameButTiming.seqLegal_eq {s t : State} (h : SameButTiming s t) : seqLegal t = seqLegal s :=
  seqLegal_congr h.seq_eq

theorem SameButTiming.causeLegal_eq {s t : State} (h : SameButTiming s t) : causeLegal t = causeLegal s :=
  causeLegal_congr h.cause_eq

theorem SameButTiming.busy_eq {s t : State} (h : SameButTiming s t) : busy t = busy s :=
  busy_congr h.seq_eq

/-- The input levels of this step and of every one to come meet `P`. -/
def EveryLevel (P : Pins → Prop) (s : State) : Prop := P s.pins ∧ ∀ p ∈ s.script, P p

theorem EveryLevel.tick {P : Pins → Prop} {s : State} (h : EveryLevel P s) : EveryLevel P (tick s) := by
  obtain ⟨hpins, hscript⟩ := h
  cases hs : s.script with
  | nil => rw [tick_of_nil hs]; exact ⟨hpins, hscript⟩
  | cons p rest =>
    rw [hs] at hscript
    rw [tick_of_cons hs]
    exact List.forall_mem_cons.mp hscript

/-- If under the levels `P` the block of `s` lets a step pass and nothing happens, then it lets any number of steps pass as
long as the levels meet `P`. -/
theorem run_sameButTiming {P : Pins → Prop} {s : State}
    (hstep : ∀ t, SameButTiming s t → P t.pins → step t = .next (tick t)) (hlev : EveryLevel P s) (n : Nat) :
    ∃ t, run n s = .next t ∧ SameButTiming s t := by
  obtain ⟨t, hrun, hsame, -⟩ := run_keeps (P := fun t => SameButTiming s t ∧ EveryLevel P t)
    (fun t ⟨hsame, hlev⟩ => ⟨_, hstep t hsame hlev.1, hsame.trans (sameButTiming_tick t), hlev.tick⟩) n s ⟨rfl, hlev⟩
  exact ⟨t, hrun, hsame⟩

/-- A step that finds bytes pending and the transport not ready waits (R65, R118). -/
theorem step_stalled {s : State} (hr : s.pins.rst = false) (ht : s.pins.txReady = false) (hl : seqLegal s = true)
    (hc : causeLegal s = true) (hb : busy s = true) : step s = .next (tick s) := by
  rw [step_busy hr hl hc hb, ht]
  rfl

end Sys2Proof.Safety

namespace Sys2Proof.Proofs

open Sys2Proof.Machine Sys2Proof.Safety

/-- A defined opcode with a reserved bit of its format set (R45 to R47, R49). -/
theorem decode_of_reservedBits {w : Word}
    (h : ((w.toNat / 2 ^ 28 = 1 ∨ w.toNat / 2 ^ 28 = 2) ∧ w.toNat / 2 ^ 8 % 2 ^ 20 ≠ 0) ∨
      (w.toNat / 2 ^ 28 = 3 ∧ w.toNat / 2 ^ 21 % 2 ^ 7 ≠ 0) ∨
      ((w.toNat / 2 ^ 28 = 4 ∨ w.toNat / 2 ^ 28 = 5) ∧ w.toNat % 2 ^ 28 ≠ 0)) : decode w = .rsvdBits := by
  obtain ⟨hopen, hbyte, hchar, hclose, hclrErr, -⟩ := decodeFollowsBitFields w
  obtain ⟨hop | hop, hr⟩ | ⟨hop, hr⟩ | ⟨hop | hop, hr⟩ := h
  · exact (hopen hop).trans (if_pos hr)
  · exact (hbyte hop).trans (if_pos hr)
  · exact (hchar hop).trans (if_pos hr)
  · exact (hclose hop).trans (if_pos hr)
  · exact (hclrErr hop).trans (if_pos hr)

/-- Settles O19: the decoder's verdict gives causes 1 and 2, the sequence check 3 and 4, and CLRERR clears. -/
theorem rejectionCauses : Obligations.RejectionCauses := by
  unfold Obligations.RejectionCauses
  intro w s _ hc hb he
  refine ⟨fun hop => ?illegalOp, fun hr => ?rsvdBits, fun hq hw => ?notOpen, fun hq hw => ?alreadyOpen,
    fun hw => ?clrErr⟩
  case illegalOp =>
    rw [← opField_toNat] at hop
    rw [acceptCommand_of_illegalOp (decode_of_undefined (operands_of_undefined hop))]
    exact rejectWord_of_noErr .illegalOp hb hc he
  case rsvdBits =>
    rw [acceptCommand_of_rsvdBits (decode_of_reservedBits hr)]
    exact rejectWord_of_noErr .rsvdBits hb hc he
  case notOpen =>
    obtain ⟨b, rfl⟩ | ⟨cp, rfl⟩ | rfl := hw
    all_goals
      rw [acceptCommand_encode]
      exact acceptGate_needOpen_of_idle _ hc he hq
  case alreadyOpen =>
    obtain ⟨sel, rfl⟩ := hw
    rw [acceptCommand_encode]
    exact acceptGate_needIdle_of_openw _ hc he hq
  case clrErr =>
    rw [hw, acceptCommand_encode]
    exact ⟨_, acceptGate_ready _ hb hc, rfl, rfl⟩

/-- Settles O20: every other word stands behind the discard (`acceptCommand_eq_unlessError`), and CLRERR is
`clearError`. -/
theorem discardWhileError : Obligations.DiscardWhileError := by
  unfold Obligations.DiscardWhileError
  intro w s _ hc hb he
  have hword : encode .clrErr = 0x50000000#32 := rfl
  rw [← hword]
  refine ⟨fun hw => ?discards, fun hw => ?clears⟩
  case discards =>
    obtain ⟨act, hgate⟩ := acceptCommand_eq_unlessError hw
    rw [hgate, acceptGate_unlessError_of_err act hb hc he]
  case clears =>
    rw [hw, acceptCommand_encode]
    exact ⟨_, acceptGate_ready _ hb hc, rfl, rfl, pend_of_drained rfl⟩

/-- Settles O21: of the effects of a word only the discard and the error entry leave `err` = 1. -/
theorem errorsArePrecise : Obligations.ErrorsArePrecise := by
  unfold Obligations.ErrorsArePrecise
  intro w s t hb h he
  rw [(acceptEffect_of_acceptCommand hb h).eq_of_err he]
  exact ⟨rfl, rfl, rfl, rfl, rfl, pend_of_drained hb⟩

/-- Settles O28: a stalled step waits (`step_stalled`), so any number of them does; a reset step goes to IDLE. -/
theorem stalledTransportHangs : Obligations.StalledTransportHangs := by
  unfold Obligations.StalledTransportHangs
  intro s n hl hc hb
  refine ⟨fun ht hr hscript => ?hangs, fun hr => ?escapes⟩
  case hangs =>
    have hwait : ∀ t, SameButTiming s t → t.pins.txReady = false ∧ t.pins.rst = false → step t = .next (tick t) :=
      fun t hsame ⟨ht, hr⟩ =>
        step_stalled hr ht (hsame.seqLegal_eq.trans hl) (hsame.causeLegal_eq.trans hc) (hsame.busy_eq.trans hb)
    obtain ⟨t, hrun, hsame⟩ :=
      run_sameButTiming (P := fun p => p.txReady = false ∧ p.rst = false) hwait ⟨⟨ht, hr⟩, hscript⟩ n
    exact ⟨t, hrun, hsame, by simp [cmdReady, hsame.busy_eq, hb]⟩
  case escapes => exact ⟨_, step_reset hr, by simp [cmdReady]⟩

/-- Settles O29: a drained step with no word offered moves the input levels only, and with no word left none is ever
offered. -/
theorem idleHoldsState : Obligations.IdleHoldsState := by
  unfold Obligations.IdleHoldsState
  refine ⟨fun s _ hc hb ho hr => ⟨_, step_noWord hr hc hb ho, sameButTiming_tick s⟩, fun n s _ hc hb hw hnr => ?_⟩
  refine run_sameButTiming (P := fun p => p.rst = false) (fun t hsame hr => ?_) hnr n
  exact step_noWord hr (hsame.causeLegal_eq.trans hc) (hsame.busy_eq.trans hb) (offered_of_nil (hsame.cmdq_eq.trans hw))

/-- Settles O23: the gate and the step fault on a reserved cause, and a reset step is reset in any state. -/
theorem reservedCauseFaults : Obligations.ReservedCauseFaults := by
  unfold Obligations.ReservedCauseFaults
  intro s hq hcause
  have hl : seqLegal s = true := decide_eq_true hq
  have hc : causeLegal s = false := decide_eq_false (by omega)
  refine ⟨fun hr => step_reservedCause hr hl hc, fun i => ?_, fun hr => ⟨_, step_reset hr, by simp⟩⟩
  obtain ⟨act, hgate⟩ := exec_eq_acceptGate i
  rw [hgate, acceptGate_reservedCause act hl hc]

end Sys2Proof.Proofs

/-! Proofs of the statements of 70_reset_and_hazards.md: what a reset step leaves, and the steps a packet takes. -/

namespace Sys2Proof.Safety

open Sys2Proof.Machine

/-! ### The block at its reset values -/

theorem JustReset.tick {s : State} (h : JustReset s) : JustReset (tick s) := by
  simpa [JustReset] using h

theorem JustReset.drained {s : State} (h : JustReset s) : busy s = false := busy_of_idle h.1

theorem JustReset.openF_eq {s : State} (h : JustReset s) : openF s = false := by
  obtain ⟨hseq, -⟩ := h
  simp [openF, hseq]

/-- Every field of STATUS is 0 (R23, R119). -/
theorem JustReset.statusReg_eq {s : State} (h : JustReset s) : statusReg s = 0x0000#16 := by
  have hopen := h.openF_eq
  have hbusy := h.drained
  obtain ⟨hseq, -, -, -, herr, hcause⟩ := h
  rw [statusReg, hopen, hbusy, hseq, herr, hcause]
  rfl

end Sys2Proof.Safety

namespace Sys2Proof.Proofs

open Sys2Proof.Machine Sys2Proof.Safety

/-- Settles O43: `run_framed` counts one step for each command and each byte of the packet, and the packet has 17 + n
bytes. -/
theorem framedRunCompletes : Obligations.FramedRunCompletes := by
  unfold Obligations.FramedRunCompletes
  intro s sel cmds rest h hq he hp hpay hw
  obtain ⟨-, hlen⟩ := packetStructure sel (bodyBytes cmds)
  obtain ⟨t, hrun, hseq, herr, hlog, hacc, hcmdq⟩ := run_framed h hq he hp hpay hw
  exact ⟨t, hlen ▸ hrun, hlog, hseq, herr, hcmdq, hacc⟩

/-- Settles O2: a reset step is `resetBlock`, and the rest is read off the registers it sets. -/
theorem resetStepClearsBlock : Obligations.ResetStepClearsBlock := by
  unfold Obligations.ResetStepClearsBlock
  intro s hr
  have hreset : JustReset (tick (resetBlock s)) := (justReset_resetBlock s).tick
  exact ⟨_, step_reset hr, hreset, by simp, by simp, pend_of_drained hreset.drained, hreset.openF_eq, by simp [cmdReady],
    hreset.drained, hreset.statusReg_eq, by simp [accReg]⟩

end Sys2Proof.Proofs
